-- ==== Sys2Proof/Word.lean ====
section
/-! DEFINITION. The words of the machine: bytes, colours and line levels (spec/00_scope.md rule R7). -/

namespace Sys2Proof

/-- R7: a byte is an unsigned 8-bit value. -/
abbrev Byte := BitVec 8

/-- R71: the operand of CLEAR is 16 bits (a "565" colour the sequencer never interprets, R55). -/
abbrev Color := BitVec 16

/-- R7, R8: a level is 0 (low) or 1 (high). -/
inductive Level where
  | low
  | high
deriving DecidableEq, Repr, Inhabited

end Sys2Proof
end

