-- ==== Sys2Proof/Syntax.lean ====
section
/-! DEFINITION. Abstract syntax: the host operations (R71), the table entries (R72) and the controller
commands the sequencer originates (R80 to R82); one constructor of `Instr` for each row of
spec/opcode_table.json. -/

namespace Sys2Proof

/-- R72: `CommandEntry = Command{opcode, parameters} | Delay{duration_ms}`. No bound on the number of
parameters or on the duration, no restriction on the opcode. -/
inductive CommandEntry where
  | command (opcode : Byte) (parameters : List Byte)
  | delay (durationMs : Nat)
deriving DecidableEq, Repr

/-- R71: the names of the seven host operations, as the event `RET(op, result)` carries them (R13). -/
inductive HostOp where
  | sendCommand
  | sendData
  | reset
  | initializePanel
  | setFullWindow
  | clear
  | setBacklight
deriving DecidableEq, Repr

/-- R89: the decode spaces of the opcode table, "different inputs" that do not collide. -/
inductive Space where
  /-- Host requests, matched on byte 0 (R73). -/
  | host
  /-- Table image entries, matched on the tag byte (R76). -/
  | table
  /-- Opcode bytes of the command frames the sequencer itself originates (R80 to R82). -/
  | wire
deriving DecidableEq, Repr

/-- The twelve rows of spec/opcode_table.json (R89). -/
inductive Instr where
  /-- SEND_COMMAND, R101. -/
  | sendCommand (opcode : Byte)
  /-- SEND_DATA, R102. -/
  | sendData (bytes : List Byte)
  /-- RESET, R120. -/
  | reset
  /-- INITIALIZE, R130. -/
  | initializePanel
  /-- SET_FULL_WINDOW, R150. -/
  | setFullWindow
  /-- CLEAR, R154. -/
  | clear (color : Color)
  /-- SET_BACKLIGHT, R180. -/
  | setBacklight (duty : Nat)
  /-- T.COMMAND, R131. -/
  | tCommand (opcode : Byte) (parameters : List Byte)
  /-- T.DELAY, R132. -/
  | tDelay (durationMs : Nat)
  /-- CASET, the column step, R151. -/
  | caset
  /-- PASET, the row step, R152. -/
  | paset
  /-- RAMWR, the memory-write step, R153. -/
  | ramwr
deriving DecidableEq, Repr

/-- R89: which decode space an instruction belongs to. -/
def Instr.space : Instr → Space
  | .sendCommand _ => .host
  | .sendData _ => .host
  | .reset => .host
  | .initializePanel => .host
  | .setFullWindow => .host
  | .clear _ => .host
  | .setBacklight _ => .host
  | .tCommand _ _ => .table
  | .tDelay _ => .table
  | .caset => .wire
  | .paset => .wire
  | .ramwr => .wire

/-- R72: a table entry as an instruction. -/
def CommandEntry.toInstr : CommandEntry → Instr
  | .command op ps => .tCommand op ps
  | .delay n => .tDelay n

end Sys2Proof
end

