-- ==== Sys2Proof/Config.lean ====
section
/-! DEFINITION. What an instance of the hardware fixes (spec/00_scope.md rules R5, R6), the answers of the
platform services (R14), and the free values. -/

namespace Sys2Proof

/-- A type the spec leaves OPEN, with what a state needs of it: its values can be compared and printed, and there is
one. `unit` is there so that a constant of this type can be declared with no body. -/
inductive OpenType where
  | unit
  | of (carrier : Type) (decEq : DecidableEq carrier) (repr : Repr carrier) (any : carrier)
deriving Inhabited

/-- The type itself. -/
def OpenType.carrier : OpenType → Type
  | .unit => Unit
  | .of carrier _ _ _ => carrier

/-- Its values can be compared. -/
def OpenType.decEq : (t : OpenType) → DecidableEq t.carrier
  | .unit => inferInstanceAs (DecidableEq Unit)
  | .of _ decEq _ _ => decEq

/-- Its values can be printed. -/
@[reducible] def OpenType.repr : (t : OpenType) → Repr t.carrier
  | .unit => inferInstanceAs (Repr Unit)
  | .of _ _ repr _ => repr

/-- One of its values. -/
def OpenType.any : (t : OpenType) → t.carrier
  | .unit => ()
  | .of _ _ _ any => any

/-- A value of an OPEN type, as a state holds it. -/
structure Payload (t : OpenType) [DecidableEq t.carrier] [Repr t.carrier] where
  value : t.carrier
deriving DecidableEq, Repr

/-- R5, D12: the type parameter `Cause`, "OPEN (opaque type)". A constant with no body, so that no proof can rest on what
the type is: DESIGN CHOICE (log 3), safe. -/
opaque Config.causeType : OpenType

/-- R194, R5, D12: the platform's own error payload, of the OPEN type; it is carried and never inspected
(`Obligations.OperationsNeverInspectCauses`). -/
abbrev Cause : Type := @Payload Config.causeType Config.causeType.decEq Config.causeType.repr

/-- A cause from a value of the platform's type. -/
def Cause.of (value : Config.causeType.carrier) : Cause :=
  @Payload.mk Config.causeType Config.causeType.decEq Config.causeType.repr value

/-- Some cause (log 3). -/
def Cause.any : Cause := Cause.of Config.causeType.any

/-- R14: one answer of the environment to one request (`drive` or `burst`).
`fail k landed c` carries everything the environment decides about a failed request: the cause `c`; for a
burst, how many bytes went out (R10; read as at most the burst's length); for a line write, whether the
line took the requested level (R9, `either(previous, v)`). DESIGN CHOICE (log 2), safe: every outcome
R9 and R10 allow is one of these answers, and each of these answers is one they allow. -/
inductive Answer where
  | ok
  | fail (k : Nat) (landed : Bool) (c : Cause)
deriving DecidableEq, Repr, Inhabited

/-- R6: a panel dimension, in 1..256. A value outside the range cannot be built. -/
abbrev PanelDim := { n : Nat // 1 ≤ n ∧ n ≤ 256 }

/-- R5, R6: `RESET_HOLD_MS` is 100 and "not configurable", so it has one value. -/
abbrev ResetHold := { n : Nat // n = 100 }

/-- R5, R25 to R27: the parameters of the block. The type `Cause`, a parameter of R5 too, is the constant
`Config.causeType`, since a field of a state cannot range over types. What the SPI transport is set to (R5's last row)
lies outside the sequencer. -/
structure Config where
  /-- R25: `WIDTH`. -/
  width : PanelDim
  /-- R25: `HEIGHT`. -/
  height : PanelDim
  /-- R26: `INIT_TABLE`, any finite list of entries (R78). -/
  initTable : List CommandEntry
  /-- R27: `OP_CASET`. -/
  opCaset : Byte
  /-- R27: `OP_PASET`. -/
  opPaset : Byte
  /-- R27: `OP_RAMWR`. -/
  opRamwr : Byte
  /-- R5, R6: `DUTY_W >= 1`. -/
  dutyW : { n : Nat // 1 ≤ n }
  /-- R5: `RESET_HOLD_MS`. -/
  resetHoldMs : ResetHold
deriving DecidableEq, Repr

/-- R5, R135, D5: the contents of `INIT_TABLE` are OPEN. DESIGN CHOICE (log 11): a free value, so that no
proof about the machine after reset can rest on an entry. Safe. -/
opaque Config.vendorTable : List CommandEntry

/-- R14: the answers of the platform services beyond those a state writes down, a free value applied to
the number of answers drawn so far. DESIGN CHOICE (log 1). Safe. -/
opaque Config.freeAnswer : Nat → Answer

end Sys2Proof
end

