-- ==== Sys2Proof/WellFormed.lean ====
section
/-! DEFINITION. When an instruction has a binary form (spec/30_encoding.md rules R73 to R76). -/

namespace Sys2Proof

/-- The bounds the binary forms put on operands: `L` is 32 bits (R75), a duty is `DUTY_W` bits (R73, R84),
`N` is 0..255 and `duration_ms` is 32 bits (R76). Every other operand is bounded by its type. -/
def Instr.wf (c : Config) : Instr → Bool
  | .sendCommand _ => true
  | .sendData bytes => decide (bytes.length < 2 ^ 32)
  | .reset => true
  | .initializePanel => true
  | .setFullWindow => true
  | .clear _ => true
  | .setBacklight duty => decide (duty < 2 ^ c.dutyW.val)
  | .tCommand _ ps => decide (ps.length < 2 ^ 8)
  | .tDelay ms => decide (ms < 2 ^ 32)
  | .caset => true
  | .paset => true
  | .ramwr => true

/-- R76: a table has a byte image when each of its entries has one. -/
def tableWf (c : Config) (t : List CommandEntry) : Bool := t.all fun e => e.toInstr.wf c

/-- The three opcode bytes the sequencer originates are told apart on the wire by their values (R27); R6 asks
only that they are bytes, so a claim about reading them back takes this as a premise. -/
def Config.opcodesDistinct (c : Config) : Bool :=
  decide (c.opCaset ≠ c.opPaset ∧ c.opCaset ≠ c.opRamwr ∧ c.opPaset ≠ c.opRamwr)

end Sys2Proof
end

