-- ==== Sys2Proof/Decode.lean ====
section
/-! DEFINITION. Decoding, total on any bytes and rejecting by name, and the encoder: host requests
(R73 to R75, R84), the table image (R76, R77, R85), and the opcode bytes on the wire (R80 to R82). -/

namespace Sys2Proof

/-- R5, R42: the values this hardware takes. The three opcode bytes are PRESUMED by the spec itself
(D6, log 10); `DUTY_W` is the default of R5 (D7, log 13). -/
def Config.standard : Config where
  width := ⟨240, by decide⟩
  height := ⟨240, by decide⟩
  initTable := Config.vendorTable
  opCaset := 0x2A
  opPaset := 0x2B
  opRamwr := 0x2C
  dutyW := ⟨16, by decide⟩
  resetHoldMs := ⟨100, rfl⟩

/-! ## Big-endian numbers (R73, R74: most significant byte first) -/

/-- The unsigned number a byte list spells, most significant byte first. -/
def beNat : List Byte → Nat
  | [] => 0
  | b :: bs => b.toNat * 256 ^ bs.length + beNat bs

/-- The low `len` bytes of a number, most significant byte first. -/
def beBytes : Nat → Nat → List Byte
  | 0, _ => []
  | n + 1, v => BitVec.ofNat 8 (v / 256 ^ n) :: beBytes n v

/-- R73: `ceil(DUTY_W/8)`, the bytes a duty operand takes. -/
def dutyBytes (dutyW : Nat) : Nat := (dutyW + 7) / 8

/-- R55, R83: `pix(c) = [c[15:8], c[7:0]]`. -/
def pix (c : Color) : List Byte := [c.extractLsb' 8 8, c.extractLsb' 0 8]

/-! ## Rejections -/

/-- Why a byte string spells no instruction. -/
inductive DecodeError where
  /-- R75: shorter or longer than its stated length, so not a request. -/
  | notWhole
  /-- R84: a reserved host code. -/
  | reservedCode (code : Byte)
  /-- R84: a SET_BACKLIGHT operand with a nonzero bit above `DUTY_W - 1`. -/
  | reservedDuty
  /-- R85: a reserved table tag. -/
  | reservedTag (tag : Byte)
  /-- R77: an entry that runs past the end of the image. -/
  | entryTruncated
  /-- R80 to R82: an opcode byte the sequencer does not originate. -/
  | notOriginated (opcode : Byte)
deriving DecidableEq, Repr

/-! ## Host requests -/

/-- R73: a request with no operand. -/
def decodeBare (i : Instr) : List Byte → Except DecodeError Instr
  | [] => .ok i
  | _ :: _ => .error .notWhole

/-- R73: format H-OP8. -/
def decodeOp8 : List Byte → Except DecodeError Instr
  | [op] => .ok (.sendCommand op)
  | _ => .error .notWhole

/-- R73, R74: format H-VAR, a 32-bit count and that many bytes. -/
def decodeVar : List Byte → Except DecodeError Instr
  | l3 :: l2 :: l1 :: l0 :: payload =>
    if payload.length = beNat [l3, l2, l1, l0] then .ok (.sendData payload) else .error .notWhole
  | _ => .error .notWhole

/-- R73, R74: format H-C16, `color = byte1*256 + byte2`. -/
def decodeC16 : List Byte → Except DecodeError Instr
  | [hi, lo] => .ok (.clear (hi ++ lo))
  | _ => .error .notWhole

/-- R73, R74: format H-DUTY; nonzero unused high bits are reserved (R84). -/
def decodeDuty (dutyW : Nat) (bytes : List Byte) : Except DecodeError Instr :=
  if bytes.length = dutyBytes dutyW then
    if beNat bytes < 2 ^ dutyW then .ok (.setBacklight (beNat bytes)) else .error .reservedDuty
  else .error .notWhole

/-- R73, R75, R84: a host request, from its byte 0. -/
def decodeHost (dutyW : Nat) : List Byte → Except DecodeError Instr
  | [] => .error .notWhole
  | code :: rest =>
    match code.toNat with
    | 1 => decodeOp8 rest
    | 2 => decodeVar rest
    | 3 => decodeBare .reset rest
    | 4 => decodeBare .initializePanel rest
    | 5 => decodeBare .setFullWindow rest
    | 6 => decodeC16 rest
    | 7 => decodeDuty dutyW rest
    | _ => .error (.reservedCode code)

/-! ## The table image -/

/-- R76: the entry at the front of an image, and the rest of the image. -/
def decodeEntry : List Byte → Except DecodeError (CommandEntry × List Byte)
  | [] => .error .entryTruncated
  | tag :: rest =>
    match tag.toNat with
    | 0 =>
      match rest with
      | op :: n :: ps =>
        if n.toNat ≤ ps.length then .ok (.command op (ps.take n.toNat), ps.drop n.toNat)
        else .error .entryTruncated
      | _ => .error .entryTruncated
    | 1 =>
      match rest with
      | d3 :: d2 :: d1 :: d0 :: rest' => .ok (.delay (beNat [d3, d2, d1, d0]), rest')
      | _ => .error .entryTruncated
    | _ => .error (.reservedTag tag)

/-- R77: the entries of an image in order; every entry takes at least one byte, so the image's length is
fuel enough. -/
def decodeEntries : Nat → List Byte → Except DecodeError (List CommandEntry)
  | _, [] => .ok []
  | 0, _ :: _ => .error .entryTruncated
  | fuel + 1, b :: bs =>
    match decodeEntry (b :: bs) with
    | .error e => .error e
    | .ok (entry, rest) =>
      match decodeEntries fuel rest with
      | .error e => .error e
      | .ok entries => .ok (entry :: entries)

/-- R77: decoding the image into the list of entries. -/
def decodeTable (image : List Byte) : Except DecodeError (List CommandEntry) :=
  decodeEntries image.length image

/-! ## The wire -/

/-- R80 to R82: which of the sequencer's own commands an opcode byte is. -/
def decodeWire (c : Config) (op : Byte) : Except DecodeError Instr :=
  if op = c.opCaset then .ok .caset
  else if op = c.opPaset then .ok .paset
  else if op = c.opRamwr then .ok .ramwr
  else .error (.notOriginated op)

/-- R89: one instruction from exactly its bytes, in its decode space. -/
def decode (c : Config) (sp : Space) (bytes : List Byte) : Except DecodeError Instr :=
  match sp with
  | .host => decodeHost c.dutyW.val bytes
  | .table =>
    match decodeEntry bytes with
    | .error e => .error e
    | .ok (e, []) => .ok e.toInstr
    | .ok (_, _ :: _) => .error .notWhole
  | .wire =>
    match bytes with
    | [op] => decodeWire c op
    | _ => .error .notWhole

/-! ## The encoder -/

/-- R73, R76, R80 to R82: the bytes of an instruction. -/
def encode (c : Config) : Instr → List Byte
  | .sendCommand op => [0x01, op]
  | .sendData bytes => 0x02 :: (beBytes 4 bytes.length ++ bytes)
  | .reset => [0x03]
  | .initializePanel => [0x04]
  | .setFullWindow => [0x05]
  | .clear color => 0x06 :: pix color
  | .setBacklight duty => 0x07 :: beBytes (dutyBytes c.dutyW.val) duty
  | .tCommand op ps => 0x00 :: op :: BitVec.ofNat 8 ps.length :: ps
  | .tDelay ms => 0x01 :: beBytes 4 ms
  | .caset => [c.opCaset]
  | .paset => [c.opPaset]
  | .ramwr => [c.opRamwr]

/-- R76: the image of a table, its entries' images with nothing between them. -/
def encodeTable (c : Config) (t : List CommandEntry) : List Byte := t.flatMap fun e => encode c e.toInstr

/-! ## Building a configuration (R6, R77, R78, R85) -/

/-- Why a configuration is refused when it is built. -/
inductive ConfigError where
  /-- R6: `WIDTH` outside 1..256. -/
  | widthOutOfRange
  /-- R6: `HEIGHT` outside 1..256. -/
  | heightOutOfRange
  /-- R6: `DUTY_W` is 0. -/
  | dutyWidthZero
  /-- R77, R85: the table image is ill-formed. -/
  | illFormedTable (why : DecodeError)
deriving DecidableEq, Repr

/-- R6: "A model must refuse a configuration outside this range rather than truncate"; R78: an ill-formed
image "is refused at configuration time, never at run time". -/
def Config.build (width height : Nat) (image : List Byte) (opCaset opPaset opRamwr : Byte) (dutyW : Nat) :
    Except ConfigError Config :=
  if hw : 1 ≤ width ∧ width ≤ 256 then
    if hh : 1 ≤ height ∧ height ≤ 256 then
      if hd : 1 ≤ dutyW then
        match decodeTable image with
        | .error e => .error (.illFormedTable e)
        | .ok t => .ok ⟨⟨width, hw⟩, ⟨height, hh⟩, t, opCaset, opPaset, opRamwr, ⟨dutyW, hd⟩, ⟨100, rfl⟩⟩
      else .error .dutyWidthZero
    else .error .heightOutOfRange
  else .error .widthOutOfRange

/-! ## Words of the opcode table, laid out as bytes -/

/-- The first `n` bytes of a word, bit 0 of the word being the least significant bit of the first byte. -/
def wordBytes : Nat → Nat → List Byte
  | 0, _ => []
  | n + 1, w => BitVec.ofNat 8 w :: wordBytes n (w / 256)

/-- A byte string cut or filled with zero bytes to a length. -/
def fit (len : Nat) (bytes : List Byte) : List Byte :=
  (bytes ++ List.replicate (len - bytes.length) 0).take len

/-- R75: "A decoder tells the length from byte 0 alone, except for SEND_DATA, whose length is 5 + L"
(reserved codes: one byte). -/
def hostLength (dutyW : Nat) (bytes : List Byte) : Nat :=
  match fit 5 bytes with
  | code :: l =>
    match code.toNat with
    | 1 => 2
    | 2 => 5 + beNat l
    | 6 => 3
    | 7 => 1 + dutyBytes dutyW
    | _ => 1
  | [] => 1

/-- R76: the length of the entry at the front of an image: 3 + N or 5 (reserved tags: one byte). -/
def entryLength (bytes : List Byte) : Nat :=
  match fit 3 bytes with
  | [tag, _, n] =>
    match tag.toNat with
    | 0 => 3 + n.toNat
    | 1 => 5
    | _ => 1
  | _ => 1

/-- DESIGN CHOICE (log 8): which decode space a word of the opcode table is read in. Host codes and table
tags are different inputs (R89) and share the byte 0x01: a word of more than two bytes with that byte is a
T.DELAY (5 bytes), a shorter one a SEND_COMMAND (2 bytes). -/
def tableWordSpace (nbits w : Nat) : Space :=
  match w % 256 with
  | 0x00 => .table
  | 0x01 => if nbits ≤ 16 then .host else .table
  | 0x2A => .wire
  | 0x2B => .wire
  | 0x2C => .wire
  | _ => .host

/-- The bytes of a word of the opcode table, every bit above `nbits` zero, to the instruction's whole
length. -/
def tableWordBytes (dutyW nbits w : Nat) : List Byte :=
  let given := wordBytes (nbits / 8) w
  match tableWordSpace nbits w with
  | .host => fit (hostLength dutyW given) given
  | .table => fit (entryLength given) given
  | .wire => fit 1 given

/-- The instruction the decoder reads from a word of the opcode table, at the parameter values of R5. -/
def decodeTableWord (nbits w : Nat) : Option Instr :=
  match decode Config.standard (tableWordSpace nbits w)
      (tableWordBytes Config.standard.dutyW.val nbits w) with
  | .ok i => some i
  | .error _ => none

end Sys2Proof
end

