-- ==== Sys2Proof/Machine/State.lean ====
section
/-! DEFINITION. The state of the machine as plain data: the registers of spec/10_state.md, the ghost state of
R36 to R38 and R53, the trace (R13), and the environment's inputs (R14, R73). -/

namespace Sys2Proof.Machine

/-! ## Vocabulary -/

/-- R8: the three digital output lines. -/
inductive Line where
  | cs
  | dc
  | rst
deriving DecidableEq, Repr

/-- R190: the three error kinds. `delay` is reserved and never raised (R193). -/
inductive ErrorKind where
  | spi
  | gpio
  | delay
deriving DecidableEq, Repr

/-- R12, R28: an operation's result, `Ok` or `Err(kind(c))`. -/
inductive Result where
  | ok
  | err (kind : ErrorKind) (c : Cause)
deriving DecidableEq, Repr

/-- R9: the answer to a line write, as the event records it. -/
inductive LineAnswer where
  | ok
  | fail (c : Cause)
deriving DecidableEq, Repr

/-- R10: the answer to a burst, as the event records it: `fail k c` after exactly `k` bytes. -/
inductive BurstAnswer where
  | ok
  | fail (k : Nat) (c : Cause)
deriving DecidableEq, Repr

/-- R13: the event kinds, "exactly" these. -/
inductive Event where
  | line (l : Line) (v : Level) (a : LineAnswer)
  | tx (bytes : List Byte) (a : BurstAnswer)
  | wait (ms : Nat)
  | blset (duty : Nat)
  | ret (op : HostOp) (r : Result)
deriving DecidableEq, Repr

/-- R36: the condition of the controller as the source describes it (ghost). -/
inductive Ctl where
  | unknown
  | postReset
  | ready
  | unusable
deriving DecidableEq, Repr

/-- Ghost, the model's own (log 17): how much of the full-window protocol the controller has just been given
without error. `origin`: the full window is set and the memory-write command sent to a Ready controller, so
the next pixel lands at (0,0) (R53, R240). -/
inductive WindowSeen where
  | nothing
  | columns
  | rows
  | origin
deriving DecidableEq, Repr

/-- R150: which step of the window body comes next. -/
inductive WindowStage where
  | column
  | row
  | memory
  | close
deriving DecidableEq, Repr

/-- The operation a state stands inside of (log 7): between the entries of a replay (R130), or between
the steps of the window body (R150) run for SET_FULL_WINDOW or for CLEAR (R154). -/
inductive Activity where
  | idle
  | replay
  | window (stage : WindowStage)
  | clearing (stage : WindowStage)
deriving DecidableEq, Repr

/-- R50, R53: the controller's pixel memory as far as it is known: (byte address, byte) pairs, addresses
strictly rising. An unlisted address reads as no value (log 16). -/
abbrev Memory := List Host.Cell

/-- What stands outside the sequencer and acts on it: the host's requests and the services' answers
(R14, R43). -/
structure Environment where
  /-- The requests the host will present, one whole byte string each, in order (R73, R241; log 4). -/
  requests : List (List Byte)
  /-- The services' next answers, as far as they are written down; after them comes
  `Config.freeAnswer` (R14; log 1). -/
  answers : List Answer
  /-- How many answers have been drawn (log 1). -/
  drawn : Nat
  /-- R84: how many refusals of reserved requests have been reported to the host, apart from STATUS
  (log 5). -/
  refusals : Nat
deriving DecidableEq, Repr

/-! ## State -/

/-- R20: the sequencer's state, with the ghost state (R36), the trace (R13) and the environment. -/
structure State where
  /-- R5, R25 to R27: the read-only constants and the table. No operation writes them. -/
  cfg : Config
  /-- R21: `CS`, 0 = asserted. -/
  cs : Level
  /-- R22: `DC`, 0 = command, 1 = data. -/
  dc : Level
  /-- R23: `RST`. -/
  rst : Level
  /-- R24: `BL`, a `DUTY_W`-bit value. -/
  bl : Nat
  /-- R28: `STATUS`, the result of the last completed operation. -/
  status : Result
  /-- R29: `BUSY`. -/
  busy : Bool
  /-- R30: `TIX`, the table index, the block's only program counter. -/
  tix : Nat
  /-- R31: `PIXCNT`. -/
  pixcnt : Nat
  /-- R32: `INFLIGHT`. -/
  inflight : Bool
  /-- R33: operand latch `OPC`. -/
  opc : Byte
  /-- R33: operand latch `DATA`. -/
  data : List Byte
  /-- R33: operand latch `COLOR`. -/
  color : Color
  /-- R33: operand latch `DUTY`. -/
  duty : Nat
  /-- R36, R37: ghost `CTL`. -/
  ctl : Ctl
  /-- R36, R38: ghost `STREAM`. -/
  stream : Bool
  /-- Ghost, the model's own (log 17). -/
  seen : WindowSeen
  /-- R50: FRAME, as far as it is known (ghost, log 16). -/
  frameMem : Memory
  /-- The operation this state stands inside of (log 7). -/
  activity : Activity
  /-- R52: the bytes sent in the current CS span, newest first (log 28). -/
  sent : List Byte
  /-- R13: the trace, newest event first; `State.trace` reads it in the order caused (log 14). -/
  log : List Event
  /-- R14: the environment's inputs. -/
  env : Environment
deriving DecidableEq, Repr

/-- Reasons the machine stops. The errors of R190 are results, not stops. -/
inductive Fault where
  /-- U16: `BUSY = 1` and no operation is under way, so neither the host (R241) nor the sequencer has a move.
  Raised by `step` alone, in states that no run reaches (log 22). Safe. -/
  | noMove
deriving DecidableEq, Repr

/-- Reasons the model gives no meaning. -/
inductive Refusal where
  /-- Raised by `exec`'s arm of an instruction that has no meaning yet. Safe. -/
  | notModelled (mnemonic : String)
  /-- R75: a byte string at the host port that is shorter or longer than its stated length "is not a request:
  the host port presents whole requests". Raised by `step` alone (log 6). Safe. -/
  | notAWholeRequest
deriving DecidableEq, Repr

/-! ## Construction -/

/-- R42, R230, R231: the state after construction with a given configuration: no event, no line driven.
The levels of `CS`, `DC`, `RST`, the duty `BL` and the operand latches are unspecified by R42: DESIGN CHOICE
(log 12), unsafe; `CS = 1` is the platform's duty (R39 a, R233 c). -/
def State.construct (c : Config) : State where
  cfg := c
  cs := .high
  dc := .low
  rst := .low
  bl := 0
  status := .ok
  busy := false
  tix := 0
  pixcnt := 0
  inflight := false
  opc := 0
  data := []
  color := 0
  duty := 0
  ctl := .unknown
  stream := false
  seen := .nothing
  frameMem := []
  activity := .idle
  sent := []
  log := []
  env := { requests := [], answers := [], drawn := 0, refusals := 0 }

/-- R42: the machine right after construction. -/
def State.reset : State := State.construct Config.standard

end Sys2Proof.Machine
end

