-- ==== Sys2Proof/Machine/Operands.lean ====
section
/-! DEFINITION. Operand forms: what the sequencer puts on the wire for its own commands (R80 to R83, R151,
R152). The host operands are assembled by the decoder (R74). -/

namespace Sys2Proof.Machine

/-- R30: `TABLE_LEN`. -/
def tableLen (c : Config) : Nat := c.initTable.length

/-- R154, R159 (2): `WIDTH*HEIGHT`, the number of pixels of the full window. -/
def pixelCount (c : Config) : Nat := c.width.val * c.height.val

/-- R5, R120: `RESET_HOLD_MS`, not tunable by the caller. -/
def resetHoldMs (c : Config) : Nat := c.resetHoldMs.val

/-- R159 (1): `n - 1` as one byte; `n` is in 1..256, so nothing is lost. -/
def lastCoordinate (n : PanelDim) : Byte := BitVec.ofNat 8 (n.val - 1)

/-- R151: `[0x00, 0x00, 0x00, WIDTH-1]`. -/
def columnParams (c : Config) : List Byte := [0x00, 0x00, 0x00, lastCoordinate c.width]

/-- R152: `[0x00, 0x00, 0x00, HEIGHT-1]`. -/
def rowParams (c : Config) : List Byte := [0x00, 0x00, 0x00, lastCoordinate c.height]

/-- R53, R158: the column of the i-th pixel streamed into the full window. -/
def pixelColumn (c : Config) (i : Nat) : Nat := i % c.width.val

/-- R53, R158: the row of the i-th pixel streamed into the full window. -/
def pixelRow (c : Config) (i : Nat) : Nat := i / c.width.val

/-- The byte address in FRAME of the first (high) byte of the pixel at a column and row: pixels in row-major
order from (0,0), two bytes each (R53, R55; log 29). -/
def pixelAddress (c : Config) (column row : Nat) : Nat := 2 * (row * c.width.val + column)

/-- R53: the size of FRAME in bytes, `2*WIDTH*HEIGHT`. -/
def frameBytes (c : Config) : Nat := 2 * pixelCount c

end Sys2Proof.Machine
end

