-- ==== Sys2Proof/Machine/Ops.lean ====
section
/-! DEFINITION. The shared operations: reading FRAME, drawing an answer, the primitives `drive`, `burst`,
`wait`, `duty` (R9 to R11), control notation (R12), the CS span and the frame (R100), and beginning and
ending an operation, error entry included (R29, R198). -/

namespace Sys2Proof.Machine

/-! ## FRAME, the controller's pixel memory as far as it is known (R50, R53) -/

/-- Addresses strictly rising; a listed byte is a known byte and an unlisted address reads as no value, so
no entry can equal what an unlisted address reads as. -/
def Memory.wf : Memory → Bool
  | [] => true
  | [_] => true
  | (a, _) :: (b, y) :: m => decide (a < b) && Memory.wf ((b, y) :: m)

/-- The byte known to stand at an address; no value where none is known (log 16). -/
def Memory.read : Memory → Nat → Option Byte
  | [], _ => none
  | (b, y) :: m, a => if b = a then some y else Memory.read m a

/-- The run of cells that holds the bytes at addresses `a`, `a + 1`, .... -/
def Memory.run : Nat → List Byte → Memory
  | _, [] => []
  | a, b :: bs => (a, b) :: Memory.run (a + 1) bs

/-- The bytes at addresses `a` to `a + n - 1` become unknown. -/
def Memory.forget (m : Memory) (a n : Nat) : Memory := m.filter fun c => decide (c.1 < a ∨ a + n ≤ c.1)

/-- The bytes at addresses `a`, `a + 1`, ... become the given ones. -/
def Memory.store (m : Memory) (a : Nat) (bs : List Byte) : Memory :=
  m.filter (fun c => decide (c.1 < a)) ++ Memory.run a bs ++
    m.filter (fun c => decide (a + bs.length ≤ c.1))

/-- R53, R240: pixel bytes streamed from (0,0) on: whole pixels land, and of half a pixel at the end the two
bytes it would have written become unknown (U7, log 18). -/
def Memory.stream (m : Memory) (bs : List Byte) : Memory :=
  Memory.forget (Memory.store m 0 (bs.take (2 * (bs.length / 2)))) (2 * (bs.length / 2)) (2 * (bs.length % 2))

/-! ## The trace (R13) -/

/-- R13: the events the sequencer has caused since construction, in the order it caused them. -/
def State.trace (s : State) : List Event := s.log.reverse

/-- R13: append one event to the trace. -/
def State.emit (s : State) (e : Event) : State := { s with log := e :: s.log }

/-! ## The environment's answers (R14) -/

/-- R14: the answer the environment will give to the i-th request from here. -/
def Environment.answerAt (e : Environment) (i : Nat) : Answer :=
  (e.answers[i]?).getD (Config.freeAnswer (e.drawn + i))

/-- One answer has been given. -/
def Environment.draw (e : Environment) : Environment :=
  { e with answers := e.answers.tail, drawn := e.drawn + 1 }

/-- R14: the answer to the i-th request from here. -/
def State.answerAt (s : State) (i : Nat) : Answer := s.env.answerAt i

/-- R14: the answer to the next request. -/
def State.answer (s : State) : Answer := s.answerAt 0

/-- One answer has been given. -/
def State.draw (s : State) : State := { s with env := s.env.draw }

/-- R9: what a line write yields. -/
def lineResult : Answer → Result
  | .ok => .ok
  | .fail _ _ c => .err .gpio c

/-- R9: the answer a `LINE` event records. -/
def lineAnswer : Answer → LineAnswer
  | .ok => .ok
  | .fail _ _ c => .fail c

/-- R9: the level of a line after a write of `v`: `v` on `ok`; on `fail`, "either its previous level or v",
as the environment decides. -/
def levelAfter (a : Answer) (previous v : Level) : Level :=
  match a with
  | .ok => v
  | .fail _ true _ => v
  | .fail _ false _ => previous

/-- R10: what a burst yields. -/
def burstResult : Answer → Result
  | .ok => .ok
  | .fail _ _ c => .err .spi c

/-- R10: how many bytes of a burst of `len` bytes went out, with `0 <= k <= len`. -/
def sentCount (a : Answer) (len : Nat) : Nat :=
  match a with
  | .ok => len
  | .fail k _ _ => min k len

/-- R10: the answer a `TX` event of a burst of `len` bytes records. -/
def burstAnswer (a : Answer) (len : Nat) : BurstAnswer :=
  match a with
  | .ok => .ok
  | .fail k _ c => .fail (min k len) c

/-! ## The primitives (R9 to R11) -/

/-- R21 to R23: the register that records a line's level. -/
def State.level (s : State) : Line → Level
  | .cs => s.cs
  | .dc => s.dc
  | .rst => s.rst

/-- R21 to R23: a line's register takes a level. -/
def State.setLevel (s : State) (l : Line) (v : Level) : State :=
  match l with
  | .cs => { s with cs := v }
  | .dc => { s with dc := v }
  | .rst => { s with rst := v }

/-- R9: `drive(L, v)`. The write is issued whether or not the line already holds `v`. -/
def drive (l : Line) (v : Level) (s : State) : Result × State :=
  (lineResult s.answer,
    ((s.setLevel l (levelAfter s.answer (s.level l) v)).draw).emit (.line l v (lineAnswer s.answer)))

/-- R10: `burst(bs)`. -/
def burst (bs : List Byte) (s : State) : Result × State :=
  (burstResult s.answer,
    ({ s with sent := (bs.take (sentCount s.answer bs.length)).reverse ++ s.sent }.draw).emit
      (.tx bs (burstAnswer s.answer bs.length)))

/-- R11: `wait(n)`, which never fails. -/
def wait (ms : Nat) (s : State) : State := s.emit (.wait ms)

/-- R11: `duty(d)`, which never fails. -/
def setDuty (d : Nat) (s : State) : State := { s with bl := d }.emit (.blset d)

/-! ## Control notation (R12) -/

/-- R12: `try p; k`. On an error of `p` nothing further is done and the error is the result. -/
def attempt (p k : State → Result × State) (s : State) : Result × State :=
  match (p s).1 with
  | .ok => k (p s).2
  | .err kind c => (.err kind c, (p s).2)

/-- R12: the first of the results that is an error, `Ok` if none is. -/
def firstError : List Result → Result
  | [] => .ok
  | .ok :: rs => firstError rs
  | .err kind c :: _ => .err kind c

/-! ## The CS span and the frame (R100) -/

/-- R100: `drive(CS, 0)`, `INFLIGHT <- 1`. -/
def openSpan (s : State) : Result × State := drive .cs .low { s with inflight := true }

/-- R100: `drive(CS, 1)`, `INFLIGHT <- 0`. -/
def closeSpan (s : State) : Result × State := drive .cs .high { s with inflight := false }

/-- R100, R154: what runs inside the span: nothing, if the CS-low write failed. -/
def spanInside (body : State → Result × State) (opened : Result × State) : Result × State :=
  match opened.1 with
  | .ok => body opened.2
  | .err _ _ => (.ok, opened.2)

/-- R100, D15: a span opened, its body run if the CS-low write was answered `ok`, and the release issued in
every case; the first error of the three is the result (D16). -/
def span (body : State → Result × State) (s : State) : Result × State :=
  let opened := openSpan s
  let inside := spanInside body opened
  let closed := closeSpan inside.2
  (firstError [opened.1, inside.1, closed.1], closed.2)

/-- R100, R154: `drive(DC, dc)` and then, only if it was answered `ok`, the span. -/
def tagged (dc : Level) (body : State → Result × State) (s : State) : Result × State :=
  attempt (drive .dc dc) (span body) { s with sent := [] }

/-- R100: `frame(dc, bs)`. -/
def frame (dc : Level) (bs : List Byte) (s : State) : Result × State := tagged dc (burst bs) s

/-! ## Beginning and ending an operation (R29, R198) -/

/-- R29: an operation is accepted: `BUSY <- 1`. -/
def State.begin (s : State) (a : Activity) : State := { s with busy := true, activity := a }

/-- R37: the ghost `CTL` after an operation has returned a result. -/
def ctlAfter (op : HostOp) (r : Result) (ctl : Ctl) : Ctl :=
  match op, r with
  | .reset, .ok => .postReset
  | .reset, .err _ _ => .unknown
  | .initializePanel, .ok => if ctl = .postReset then .ready else .unknown
  | .initializePanel, .err _ _ => .unusable
  | .setBacklight, _ => ctl
  | .sendCommand, .ok => ctl
  | .sendCommand, .err _ _ => .unknown
  | .sendData, .ok => ctl
  | .sendData, .err _ _ => .unknown
  | .setFullWindow, .ok => ctl
  | .setFullWindow, .err _ _ => .unknown
  | .clear, .ok => ctl
  | .clear, .err _ _ => .unknown

/-- The model's own (log 17): pixel positions are promised of a Ready controller only (U3), so what has been seen
of the window protocol is dropped when an operation leaves `CTL` at another value. -/
def seenAfter (ctl : Ctl) (w : WindowSeen) : WindowSeen := if ctl = .ready then w else .nothing

/-- The end of every operation, error entry included (R198 (2), (3)): `STATUS <- r`, event `RET(op, r)`,
`BUSY <- 0`, and the sequencer is idle and ready for the next operation. Nothing else is saved, masked or
changed, and control goes back to the host; there is no handler and no return from one (R198, R201). -/
def endOp (op : HostOp) (p : Result × State) : State :=
  { p.2 with
    status := p.1
    busy := false
    activity := .idle
    ctl := ctlAfter op p.1 p.2.ctl
    seen := seenAfter (ctlAfter op p.1 p.2.ctl) p.2.seen }.emit (.ret op p.1)

/-- R84, R211: a reserved request is refused: no event, no change of the sequencer's state, and the refusal is
reported to the host apart from STATUS (log 5). -/
def State.refuseRequest (s : State) : State :=
  { s with env := { s.env with refusals := s.env.refusals + 1 } }

end Sys2Proof.Machine
end

