-- ==== Sys2Proof/Machine/Ghost.lean ====
section
/-! DEFINITION. The ghost state: what the source asserts of the controller (R36, R38) and where pixels land
(R53, R158, R240). No operation's events depend on it (R36, R238). -/

namespace Sys2Proof.Machine

/-- A command that can only set the window or start a pixel stream, and so leaves FRAME's contents
(R80 to R82). -/
def isWindowCommand (c : Config) (op : Byte) : Bool :=
  decide (op = c.opCaset ∨ op = c.opPaset ∨ op = c.opRamwr)

/-- R38: after a command frame. "A command frame whose opcode byte is `OP_RAMWR` and whose frame completes
without error sets `STREAM <- 1`"; "any other command frame" sets it to 0 (a failed one too, DEDUCED,
log 15). FRAME stays known only across a completed window command that found CS high: of a frame started with CS
low the controller's reaction is refused (U14, log 16). -/
def noteCommand (csBefore : Level) (op : Byte) (p : Result × State) : Result × State :=
  (p.1,
    { p.2 with
      stream := decide (p.1 = .ok ∧ op = p.2.cfg.opRamwr)
      seen := .nothing
      frameMem := if csBefore = .high ∧ p.1 = .ok ∧ isWindowCommand p.2.cfg op then p.2.frameMem else [] })

/-- R53, R240: FRAME after the bytes of one data span. Bytes sent with `STREAM = 0` are parameters. With
`STREAM = 1`, right after the full window was set, up to `2*WIDTH*HEIGHT` bytes land row-major from (0,0);
where any other pixel bytes land is not promised (C6, U6, U7), so everything becomes unknown, as it does when
bytes go out in a span that found CS low (U14, log 16). A span in which no byte went out leaves FRAME as known, also one
that found CS low: DESIGN CHOICE (log 31), unsafe. Nor does a data frame that failed, or the CTL its operation then
leaves (R37, R237), make a byte unknown by itself: DESIGN CHOICE (log 32), unsafe. Two bytes make a pixel whatever the
table (R53, R55), though R60 lets the controller's own pixel size depend on `INIT_TABLE`: DEDUCED (log 29), unsafe. -/
def frameAfter (csBefore : Level) (s : State) : Memory :=
  if s.sent = [] then s.frameMem
  else if csBefore = .low then []
  else if s.stream = false then s.frameMem
  else if s.seen = .origin ∧ s.sent.length ≤ frameBytes s.cfg then Memory.stream s.frameMem s.sent.reverse
  else []

/-- R38, R240: after a data span. `STREAM` is left unchanged; where a second span's pixels land is not
promised. -/
def noteData (csBefore : Level) (p : Result × State) : Result × State :=
  (p.1, { p.2 with frameMem := frameAfter csBefore p.2, seen := .nothing })

/-- R38, R37: after a RESET, whatever its result (DEDUCED for a failed one, log 15). -/
def noteReset (p : Result × State) : Result × State :=
  (p.1, { p.2 with stream := false, seen := .nothing, frameMem := [] })

/-- The model's own (log 17): a step of the full-window protocol has been given without error. -/
def noteSeen (w : WindowSeen) (p : Result × State) : Result × State :=
  match p.1 with
  | .ok => (.ok, { p.2 with seen := w })
  | .err kind c => (.err kind c, p.2)

/-- R79, R100: a command frame, one opcode byte with DC low. -/
def commandFrame (op : Byte) (s : State) : Result × State := noteCommand s.cs op (frame .low [op] s)

/-- R79, R100: a data span, DC high; a data frame is one whose body is one burst. -/
def dataSpan (body : State → Result × State) (s : State) : Result × State := noteData s.cs (tagged .high body s)

/-- R79, R100: a data frame. -/
def dataFrame (bs : List Byte) (s : State) : Result × State := noteData s.cs (frame .high bs s)

end Sys2Proof.Machine
end

