-- ==== Sys2Proof/Machine/Backlight.lean ====
section
/-! DEFINITION. SET_BACKLIGHT (spec/44_backlight.md). -/

namespace Sys2Proof.Machine

/-- R180: SET_BACKLIGHT. The duty is forwarded unchanged. A value of more than `DUTY_W` bits spells no
operation and is refused without effect (R84). -/
def execSetBacklight (duty : Nat) (s : State) : Host.Outcome State Fault Refusal :=
  if duty < 2 ^ s.cfg.dutyW.val then
    .next (endOp .setBacklight (.ok, setDuty duty { s.begin .idle with duty := duty }))
  else .next s.refuseRequest

end Sys2Proof.Machine
end

