-- ==== Sys2Proof/Machine/Framing.lean ====
section
/-! DEFINITION. SEND_COMMAND and SEND_DATA (spec/40_framing.md). -/

namespace Sys2Proof.Machine

/-- R101: SEND_COMMAND. -/
def execSendCommand (opcode : Byte) (s : State) : Host.Outcome State Fault Refusal :=
  .next (endOp .sendCommand (commandFrame opcode { s.begin .idle with opc := opcode }))

/-- R102: SEND_DATA, the whole list as one burst. -/
def execSendData (bytes : List Byte) (s : State) : Host.Outcome State Fault Refusal :=
  .next (endOp .sendData (dataFrame bytes { s.begin .idle with data := bytes }))

end Sys2Proof.Machine
end

