-- ==== Sys2Proof/Machine/Replay.lean ====
section
/-! DEFINITION. INITIALIZE and the table entries T.COMMAND, T.DELAY (spec/42_initialize.md). -/

namespace Sys2Proof.Machine

/-- R131: `t_command(opcode, parameters)`: a command frame, then a data frame, also for no parameters. The
latches OPC and DATA hold the current entry's operands (R33). -/
def tCommandBody (opcode : Byte) (parameters : List Byte) (s : State) : Result × State :=
  attempt (commandFrame opcode) (dataFrame parameters) { s with opc := opcode, data := parameters }

/-- R132: `t_delay(n) = wait(n)`. -/
def tDelayBody (durationMs : Nat) (s : State) : Result × State := (.ok, wait durationMs s)

/-- R130: the body of an entry. -/
def entryBody : CommandEntry → State → Result × State
  | .command op ps => tCommandBody op ps
  | .delay n => tDelayBody n

/-- R30: `TIX <- TIX + 1`. -/
def State.nextEntry (s : State) : State := { s with tix := s.tix + 1 }

/-- R130: the loop of `init_body()`. `TABLE[TIX]` is read while `TIX < TABLE_LEN`; the fuel is the number of
entries, and each turn advances `TIX` or leaves. -/
def replay : Nat → State → Result × State
  | 0, s => (.ok, s)
  | fuel + 1, s =>
    match s.cfg.initTable[s.tix]? with
    | none => (.ok, s)
    | some e => attempt (entryBody e) (fun s' => replay fuel s'.nextEntry) s

/-- R130: `init_body()`. -/
def initBody (s : State) : Result × State := replay (tableLen s.cfg) { s with tix := 0 }

/-- R130: INITIALIZE. -/
def execInitializePanel (s : State) : Host.Outcome State Fault Refusal :=
  .next (endOp .initializePanel (initBody (s.begin .replay)))

/-- An entry of the running INITIALIZE is done: on success `TIX` advances (R30), on an error the replay stops
and INITIALIZE returns it, `TIX` holding the failing entry (R133). -/
def entryDone (p : Result × State) : State :=
  match p.1 with
  | .ok => p.2.nextEntry
  | .err _ _ => endOp .initializePanel p

/-- R131: T.COMMAND, as an entry of the running INITIALIZE (log 7). -/
def execTCommand (opcode : Byte) (parameters : List Byte) (s : State) : Host.Outcome State Fault Refusal :=
  .next (entryDone (tCommandBody opcode parameters s))

/-- R132: T.DELAY, as an entry of the running INITIALIZE (log 7). -/
def execTDelay (durationMs : Nat) (s : State) : Host.Outcome State Fault Refusal :=
  .next (entryDone (tDelayBody durationMs s))

end Sys2Proof.Machine
end

