-- ==== Sys2Proof/Machine/ResetPulse.lean ====
section
/-! DEFINITION. RESET (spec/41_reset.md): the pulse on the controller's reset line. -/

namespace Sys2Proof.Machine

/-- R120: one phase, `try drive(RST, v) ; wait(100)`, the hold taken from the constants (R5). A failed write ends the
operation before the wait (R121). -/
def resetPhase (v : Level) : State → Result × State :=
  attempt (drive .rst v) fun s => (.ok, wait (resetHoldMs s.cfg) s)

/-- R120: `reset_body()`, the phases high, low, high. -/
def resetBody : State → Result × State :=
  attempt (resetPhase .high) (attempt (resetPhase .low) (resetPhase .high))

/-- R120: RESET. -/
def execReset (s : State) : Host.Outcome State Fault Refusal :=
  .next (endOp .reset (noteReset (resetBody (s.begin .idle))))

end Sys2Proof.Machine
end

