-- ==== Sys2Proof/Machine/Window.lean ====
section
/-! DEFINITION. SET_FULL_WINDOW, its three commands CASET, PASET, RAMWR, and CLEAR
(spec/43_window_clear.md). -/

namespace Sys2Proof.Machine

/-- R151: the column step. The controller has taken it for a transaction of its own only if CS was high before
(R236). -/
def columnStep (s : State) : Result × State :=
  noteSeen (if s.cs = .high then .columns else .nothing)
    (attempt (commandFrame s.cfg.opCaset) (dataFrame (columnParams s.cfg)) s)

/-- R152: the row step. -/
def rowStep (s : State) : Result × State :=
  noteSeen (if s.seen = .columns then .rows else .nothing)
    (attempt (commandFrame s.cfg.opPaset) (dataFrame (rowParams s.cfg)) s)

/-- R153: the memory-write step, with no data frame. Pixel positions are promised of a Ready controller only
(R234, U3). -/
def memoryStep (s : State) : Result × State :=
  noteSeen (if s.seen = .rows ∧ s.ctl = .ready then .origin else .nothing)
    (commandFrame s.cfg.opRamwr s)

/-- R150: `window_body()`. -/
def windowBody : State → Result × State := attempt columnStep (attempt rowStep memoryStep)

/-- R150: SET_FULL_WINDOW. -/
def execSetFullWindow (s : State) : Host.Outcome State Fault Refusal :=
  .next (endOp .setFullWindow (windowBody (s.begin (.window .column))))

/-- R31: `PIXCNT <- PIXCNT + 1`. -/
def State.nextPixel (s : State) : State := { s with pixcnt := s.pixcnt + 1 }

/-- R154: the loop of `clear_body`: one 2-byte burst per pixel, until `n` have gone out or one has failed. -/
def pixels (color : Color) : Nat → State → Result × State
  | 0, s => (.ok, s)
  | n + 1, s => attempt (burst (pix color)) (fun s' => pixels color n s'.nextPixel) s

/-- R154: what runs inside CLEAR's span: `PIXCNT <- 0`, then `WIDTH*HEIGHT` pixels. -/
def pixelStream (color : Color) (s : State) : Result × State :=
  pixels color (pixelCount s.cfg) { s with pixcnt := 0 }

/-- R154, R155, R156: CLEAR's pixel span: DC written once, one CS span, the same bracket as the frame. -/
def pixelSpan (color : Color) : State → Result × State := dataSpan (pixelStream color)

/-- R154: `clear_body(color)`. -/
def clearBody (color : Color) : State → Result × State := attempt windowBody (pixelSpan color)

/-- R154: CLEAR. -/
def execClear (color : Color) (s : State) : Host.Outcome State Fault Refusal :=
  .next (endOp .clear (clearBody color { s.begin (.clearing .column) with color := color }))

/-- R150: the order column, row, memory-write is fixed. -/
def nextStage : WindowStage → WindowStage
  | .column => .row
  | .row => .memory
  | .memory => .close
  | .close => .close

/-- The running window body goes on to its next step. -/
def State.advanceStage (s : State) : State :=
  match s.activity with
  | .idle => s
  | .replay => s
  | .window st => { s with activity := .window (nextStage st) }
  | .clearing st => { s with activity := .clearing (nextStage st) }

/-- R88: the operation a window step belongs to: CLEAR when it is clearing, else SET_FULL_WINDOW. -/
def windowOp : Activity → HostOp
  | .idle => .setFullWindow
  | .replay => .setFullWindow
  | .window _ => .setFullWindow
  | .clearing _ => .clear

/-- A step of the window body is done: on an error the operation it belongs to returns it (R150, R155). -/
def wireDone (p : Result × State) : State :=
  match p.1 with
  | .ok => p.2.advanceStage
  | .err _ _ => endOp (windowOp p.2.activity) p

/-- R151: CASET, as a step of the running window body (log 7). -/
def execCaset (s : State) : Host.Outcome State Fault Refusal := .next (wireDone (columnStep s))

/-- R152: PASET, as a step of the running window body (log 7). -/
def execPaset (s : State) : Host.Outcome State Fault Refusal := .next (wireDone (rowStep s))

/-- R153: RAMWR, as a step of the running window body (log 7). -/
def execRamwr (s : State) : Host.Outcome State Fault Refusal := .next (wireDone (memoryStep s))

end Sys2Proof.Machine
end

