-- ==== Sys2Proof/Machine/Dispatch.lean ====
section
/-! DEFINITION. One arm per row of spec/opcode_table.json. -/

namespace Sys2Proof.Machine

def exec (i : Instr) (s : State) : Host.Outcome State Fault Refusal :=
  match i with
  | .sendCommand opcode => Sys2Proof.Machine.execSendCommand opcode s
  | .sendData bytes => Sys2Proof.Machine.execSendData bytes s
  | .reset => Sys2Proof.Machine.execReset s
  | .initializePanel => Sys2Proof.Machine.execInitializePanel s
  | .setFullWindow => Sys2Proof.Machine.execSetFullWindow s
  | .clear color => Sys2Proof.Machine.execClear color s
  | .setBacklight duty => Sys2Proof.Machine.execSetBacklight duty s
  | .tCommand opcode parameters => Sys2Proof.Machine.execTCommand opcode parameters s
  | .tDelay durationMs => Sys2Proof.Machine.execTDelay durationMs s
  | .caset => Sys2Proof.Machine.execCaset s
  | .paset => Sys2Proof.Machine.execPaset s
  | .ramwr => Sys2Proof.Machine.execRamwr s

end Sys2Proof.Machine
end

