-- ==== Sys2Proof/Machine/Fetch.lean ====
section
/-! DEFINITION. Where the next instruction comes from: the host port when `BUSY = 0` (R73, R241), and inside
an operation `TABLE[TIX]` (R30, R51) or the next step of the window body (R150). -/

namespace Sys2Proof.Machine

/-- What the machine does next. -/
inductive Fetched where
  /-- Run an instruction from this state. -/
  | run (i : Instr) (s : State)
  /-- Idle, and the host presents nothing: the sequencer waits (R231). -/
  | wait
  /-- The operation under way has run all its instructions and ends. -/
  | finish
  /-- A reserved request, taken from the host port (R84). -/
  | reserved (s : State)
  /-- What stands at the host port is no whole request (R75). -/
  | notARequest
  /-- `BUSY = 1` and nothing is under way (U16). -/
  | noMove
deriving DecidableEq, Repr

/-- D2, R241: the request at the host port is taken. -/
def State.takeRequest (s : State) : State :=
  { s with env := { s.env with requests := s.env.requests.tail } }

/-- R73, R75, R84: the host port, `BUSY = 0`. -/
def fetchHost (s : State) : Fetched :=
  match s.env.requests with
  | [] => .wait
  | bytes :: _ =>
    match decodeHost s.cfg.dutyW.val bytes with
    | .ok i => .run i s.takeRequest
    | .error .notWhole => .notARequest
    | .error (.reservedCode _) => .reserved s.takeRequest
    | .error .reservedDuty => .reserved s.takeRequest
    | .error (.reservedTag _) => .notARequest
    | .error .entryTruncated => .notARequest
    | .error (.notOriginated _) => .notARequest

/-- R150: the step of the window body a stage stands for. -/
def fetchStage (st : WindowStage) (s : State) : Fetched :=
  match st with
  | .column => .run .caset s
  | .row => .run .paset s
  | .memory => .run .ramwr s
  | .close => .finish

/-- R130: `TABLE[TIX]` while `TIX < TABLE_LEN`. -/
def fetchEntry (s : State) : Fetched :=
  match s.cfg.initTable[s.tix]? with
  | some e => .run e.toInstr s
  | none => .finish

/-- The next instruction. -/
def fetch (s : State) : Fetched :=
  if s.busy then
    match s.activity with
    | .idle => .noMove
    | .replay => fetchEntry s
    | .window st => fetchStage st s
    | .clearing st => fetchStage st s
  else fetchHost s

/-- The end of the operation under way: INITIALIZE and SET_FULL_WINDOW return Ok (R130, R150), CLEAR streams
its pixels from the COLOR latch and returns their result (R154). -/
def finish (s : State) : State :=
  match s.activity with
  | .idle => s
  | .replay => endOp .initializePanel (.ok, s)
  | .window _ => endOp .setFullWindow (.ok, s)
  | .clearing _ => endOp .clear (pixelSpan s.color s)

/-- The state with a byte string as the next request at the host port, the sequencer idle. -/
def State.presenting (s : State) (bytes : List Byte) : State :=
  { s with busy := false, activity := .idle, env := { s.env with requests := bytes :: s.env.requests } }

/-- The state inside INITIALIZE with the given table, about to replay its first entry. -/
def State.replaying (s : State) (t : List CommandEntry) : State :=
  { s with busy := true, activity := .replay, tix := 0, cfg := { s.cfg with initTable := t } }

/-- The state inside SET_FULL_WINDOW at a step of the window body. -/
def State.atStage (s : State) (st : WindowStage) : State := { s with busy := true, activity := .window st }

/-- An instruction's bytes placed where the next instruction is fetched: a host request at the host port, a
table entry as the table of a running INITIALIZE, a controller command as the next step of a running
SET_FULL_WINDOW (log 8). -/
def place (s : State) (sp : Space) (bytes : List Byte) : State :=
  match sp with
  | .host => s.presenting bytes
  | .table =>
    match decodeTable bytes with
    | .ok t => s.replaying t
    | .error _ => s
  | .wire =>
    match bytes with
    | [op] =>
      if op = Config.standard.opCaset then s.atStage .column
      else if op = Config.standard.opPaset then s.atStage .row
      else if op = Config.standard.opRamwr then s.atStage .memory
      else s
    | _ => s

end Sys2Proof.Machine
end

