-- ==== Sys2Proof/Machine/Step.lean ====
section
/-! DEFINITION. One step of the machine: fetch the next instruction and run it. -/

namespace Sys2Proof.Machine

/-- One step: one host operation, whole (R65), or, from a state inside an operation, its next instruction
(log 7). -/
def step (s : State) : Host.Outcome State Fault Refusal :=
  match fetch s with
  | .run i s' => exec i s'
  | .wait => .next s
  | .finish => .next (finish s)
  | .reserved s' => .next s'.refuseRequest
  | .notARequest => .refused .notAWholeRequest
  | .noMove => .fault .noMove

/-- The state with an instruction of the opcode table placed where `step` fetches its next instruction
(log 8). -/
def State.withFetchWord (s : State) (nbits w : Nat) : State :=
  place s (tableWordSpace nbits w) (tableWordBytes s.cfg.dutyW.val nbits w)

end Sys2Proof.Machine
end

