-- ==== Sys2Proof/Machine/Flags.lean ====
section
/-! DEFINITION. Flags: there are none (R34). What stands in their place is the coding of the STATUS register
(spec/60_exceptions.md rule R195). -/

namespace Sys2Proof.Machine

/-- R195: the 2-bit kind K of an error. -/
def ErrorKind.code : ErrorKind → BitVec 2
  | .spi => 1
  | .gpio => 2
  | .delay => 3

/-- R195: the error bit E. -/
def Result.errorBit : Result → BitVec 1
  | .ok => 0
  | .err _ _ => 1

/-- R195: the kind field K. -/
def Result.kindField : Result → BitVec 2
  | .ok => 0
  | .err k _ => k.code

/-- R195, R28: what the host reads of `STATUS` beside the opaque cause. R195 names a bit E and a 2-bit field K and
gives no bit positions: that E stands above K in one 3-bit value is DESIGN CHOICE (log 30), unsafe. -/
def State.statusCode (s : State) : BitVec 3 := s.status.errorBit ++ s.status.kindField

end Sys2Proof.Machine
end

