-- ==== Sys2Proof/Safety.lean ====
section
/-! DEFINITION. What counts as a safe run, and the vocabulary claims are stated in: the invariant of the state,
the discipline of the wires (INV-CS, INV-DC: R39, R40), and the trace each operation is expected to leave, written
from the outcome tables of the rules and not from the model's procedures. -/

namespace Sys2Proof.Machine

/-! ## Premises on the environment -/

/-- R14: the environment answers `ok` to the next `n` requests. -/
abbrev AnswersOk (s : State) (n : Nat) : Prop := ∀ i, i < n → s.answerAt i = .ok

/-! ## The invariant of the state -/

/-- What holds of every state between two steps. -/
structure StateInv (s : State) : Prop where
  /-- FRAME keeps its canonical form. -/
  memoryWf : Memory.wf s.frameMem = true
  /-- R50, R60: FRAME has `2*WIDTH*HEIGHT` bytes. -/
  memoryInside : ∀ a y, (a, y) ∈ s.frameMem → a < frameBytes s.cfg
  /-- R32: no span is open between two steps. -/
  noSpan : s.inflight = false
  /-- R30: `TIX` is in `0..TABLE_LEN`. -/
  tixBound : s.tix ≤ tableLen s.cfg
  /-- R31: `PIXCNT` is in `0..WIDTH*HEIGHT`. -/
  pixcntBound : s.pixcnt ≤ pixelCount s.cfg
  /-- R24: `BL` is a `DUTY_W`-bit value. -/
  blFits : s.bl < 2 ^ s.cfg.dutyW.val
  /-- R29: `BUSY = 1` exactly inside an operation. -/
  busyIff : s.busy = true ↔ s.activity ≠ .idle
  /-- R193: no operation has returned a DelayError. -/
  noDelayError : ∀ c, s.status ≠ .err .delay c
  /-- R240, log 17: pixels are taken to land from (0,0) on only while streaming to a Ready controller with CS
  high. -/
  originSound : s.seen = .origin → s.stream = true ∧ s.ctl = .ready ∧ s.cs = .high

/-! ## The discipline of the wires (R39, R40, R52, R79, R156) -/

/-- Where the wires stand: between spans, with DC written (`armed`) or not since the last span closed; or
inside a span whose bytes DC tags, a command byte already requested or not. -/
inductive WirePhase where
  | between (armed : Option Level)
  | inside (dc : Level) (requested : Bool)
deriving DecidableEq, Repr

/-- One event moves the wires on, or breaks the discipline (no value). DC is written once before each span and
never inside one; CS falls only after DC has been written and rises only inside a span; bytes go out only inside
a span; a command span carries one burst of one byte; everything else happens between spans. -/
def wireNext : WirePhase → Event → Option WirePhase
  | .between none, .line .dc v .ok => some (.between (some v))
  | .between none, .line .dc _ (.fail _) => some (.between none)
  | .between (some v), .line .cs .low _ => some (.inside v false)
  | .inside .low false, .tx [_] _ => some (.inside .low true)
  | .inside .high _, .tx _ _ => some (.inside .high true)
  | .inside _ _, .line .cs .high _ => some (.between none)
  | .between none, .line .rst _ _ => some (.between none)
  | .between none, .wait _ => some (.between none)
  | .between none, .blset _ => some (.between none)
  | .between none, .ret _ _ => some (.between none)
  | _, _ => none

/-- The events of a list, one after the other. -/
def wireRun : WirePhase → List Event → Option WirePhase
  | p, [] => some p
  | p, e :: es =>
    match wireNext p e with
    | some p' => wireRun p' es
    | none => none

/-- Every span the events open they close, in the discipline of `wireNext`. -/
def WellFramed (es : List Event) : Prop := wireRun (.between none) es = some (.between none)

/-- R39 (b), C5: whether CS is known to be high while no transaction is in flight: no CS write has failed
since the last release answered `ok`. -/
def csTrusted : Bool → List Event → Bool
  | known, [] => known
  | known, e :: es =>
    csTrusted
      (match e with
        | .line .cs .high .ok => true
        | .line .cs _ (.fail _) => false
        | _ => known) es

/-- R39, INV-CS: with CS high at construction (premise a) and no failed CS write since the last good release
(premise b), CS is high whenever no transaction is in flight. -/
def CsInv (s : State) : Prop := s.inflight = false → csTrusted true s.trace = true → s.cs = .high

/-! ## What the trace says -/

/-- R197: the error of the first event that failed, `Ok` if none did. -/
def firstFailure : List Event → Result
  | [] => .ok
  | .line _ _ (.fail c) :: _ => .err .gpio c
  | .tx _ (.fail _ c) :: _ => .err .spi c
  | .line _ _ .ok :: es => firstFailure es
  | .tx _ .ok :: es => firstFailure es
  | .wait _ :: es => firstFailure es
  | .blset _ :: es => firstFailure es
  | .ret _ _ :: es => firstFailure es

/-- R10, R52: the bytes the transport sent, in order. -/
def wireBytes : List Event → List Byte
  | [] => []
  | .tx bs .ok :: es => bs ++ wireBytes es
  | .tx bs (.fail k _) :: es => bs.take k ++ wireBytes es
  | .line _ _ _ :: es => wireBytes es
  | .wait _ :: es => wireBytes es
  | .blset _ :: es => wireBytes es
  | .ret _ _ :: es => wireBytes es

/-! ## STREAM as the trace tells it (R38) -/

/-- How much of a command frame of `OP_RAMWR` the events have shown. -/
inductive StreamPhase where
  /-- In no command frame, or in one that can no longer start the pixel mode. -/
  | outside
  /-- DC has been written low for a command frame. -/
  | command
  /-- The opcode byte `OP_RAMWR` has gone out; the frame completes with a good release. -/
  | opcode
deriving DecidableEq, Repr

/-- R38: one event's part in `STREAM`. A command frame's first event, its DC write, ends the pixel mode (a failed one
too, log 15), and so does a write of RST; a command frame of `OP_RAMWR` that completes without error starts it. -/
def streamNext (opRamwr : Byte) : Bool × StreamPhase → Event → Bool × StreamPhase
  | (_, _), .line .dc .low .ok => (false, .command)
  | (_, _), .line .dc .low (.fail _) => (false, .outside)
  | (st, _), .line .dc .high _ => (st, .outside)
  | (st, .command), .tx bs .ok => (st, if bs = [opRamwr] then .opcode else .outside)
  | (_, .opcode), .line .cs .high .ok => (true, .outside)
  | (st, _), .line .cs .high _ => (st, .outside)
  | (_, ph), .line .rst _ _ => (false, ph)
  | (st, ph), _ => (st, ph)

/-- R38: `STREAM` at the end of a trace that starts with `STREAM = 0`. -/
def streamRun (opRamwr : Byte) (es : List Event) : Bool × StreamPhase :=
  es.foldl (streamNext opRamwr) (false, .outside)

/-- R38: `STREAM` is what the trace since construction says, and no command frame is half done. -/
def StreamInv (s : State) : Prop := streamRun s.cfg.opRamwr s.trace = (s.stream, .outside)

/-! ## Renaming the platform's causes (R194, R5) -/

/-- An answer with another name for its cause. -/
def renameAnswer (f : Cause → Cause) : Answer → Answer
  | .ok => .ok
  | .fail k landed c => .fail k landed (f c)

/-- A result with another name for its cause. -/
def renameResult (f : Cause → Cause) : Result → Result
  | .ok => .ok
  | .err kind c => .err kind (f c)

/-- An event with another name for its cause. -/
def renameEvent (f : Cause → Cause) : Event → Event
  | .line l v .ok => .line l v .ok
  | .line l v (.fail c) => .line l v (.fail (f c))
  | .tx bs .ok => .tx bs .ok
  | .tx bs (.fail k c) => .tx bs (.fail k (f c))
  | .wait n => .wait n
  | .blset d => .blset d
  | .ret op r => .ret op (renameResult f r)

/-! ## Expected traces -/

/-- R103, case F0: the events of a frame on its success path. -/
def frameEvents (dc : Level) (bs : List Byte) : List Event :=
  [.line .dc dc .ok, .line .cs .low .ok, .tx bs .ok, .line .cs .high .ok]

/-- R103: the events and the result of `frame(dc, bs)` under the answers `a`, `r0`, `r1`, `r2` of its four
requests in the table's columns; an answer is looked at only where its request is issued. -/
def frameTable (dc : Level) (bs : List Byte) (a r0 r1 r2 : Answer) : List Event × Result :=
  match a, r0, r1, r2 with
  | .fail _ _ c, _, _, _ => ([.line .dc dc (.fail c)], .err .gpio c)
  | .ok, .fail _ _ c, _, .ok =>
    ([.line .dc dc .ok, .line .cs .low (.fail c), .line .cs .high .ok], .err .gpio c)
  | .ok, .fail _ _ c, _, .fail _ _ c' =>
    ([.line .dc dc .ok, .line .cs .low (.fail c), .line .cs .high (.fail c')], .err .gpio c)
  | .ok, .ok, .ok, .ok => (frameEvents dc bs, .ok)
  | .ok, .ok, .fail k _ c, .ok =>
    ([.line .dc dc .ok, .line .cs .low .ok, .tx bs (.fail (min k bs.length) c), .line .cs .high .ok], .err .spi c)
  | .ok, .ok, .fail k _ c, .fail _ _ c' =>
    ([.line .dc dc .ok, .line .cs .low .ok, .tx bs (.fail (min k bs.length) c), .line .cs .high (.fail c')],
      .err .spi c)
  | .ok, .ok, .ok, .fail _ _ c =>
    ([.line .dc dc .ok, .line .cs .low .ok, .tx bs .ok, .line .cs .high (.fail c)], .err .gpio c)

/-- R103: the events and the result of `frame(dc, bs)` from the environment's answers, the first of which
answers the DC write: the release is the third request after a failed CS-low write, else the fourth. -/
def frameRun (dc : Level) (bs : List Byte) (ans : Nat → Answer) : List Event × Result :=
  match ans 1 with
  | .ok => frameTable dc bs (ans 0) .ok (ans 2) (ans 3)
  | .fail k l c => frameTable dc bs (ans 0) (.fail k l c) .ok (ans 2)

/-- R103, the column "CS afterwards", from the environment's answers: unchanged where no CS write was issued; high
where the release was answered `ok`; else one of two levels, as the environment decides (D14). -/
def csAfterFrame (before : Level) (ans : Nat → Answer) : Level :=
  match ans 0, ans 1 with
  | .fail _ _ _, _ => before
  | .ok, .ok => levelAfter (ans 3) .low .high
  | .ok, .fail k l c => levelAfter (ans 2) (levelAfter (.fail k l c) before .low) .high

/-- R88: frames one after the other, stopping after the first whose result is an error. Four answers are used
by a frame that succeeds. -/
def framesRun : List (Level × List Byte) → (Nat → Answer) → List Event × Result
  | [], _ => ([], .ok)
  | (dc, bs) :: fs, ans =>
    match (frameRun dc bs ans).2 with
    | .ok =>
      ((frameRun dc bs ans).1 ++ (framesRun fs fun i => ans (i + 4)).1, (framesRun fs fun i => ans (i + 4)).2)
    | .err k c => ((frameRun dc bs ans).1, .err k c)

/-- R88: the frames of SET_FULL_WINDOW, in order. -/
def windowFrames (c : Config) : List (Level × List Byte) :=
  [(.low, [c.opCaset]), (.high, [0x00, 0x00, 0x00, lastCoordinate c.width]),
   (.low, [c.opPaset]), (.high, [0x00, 0x00, 0x00, lastCoordinate c.height]), (.low, [c.opRamwr])]

/-- R150: the twenty events of SET_FULL_WINDOW on its success path. -/
def windowEvents (c : Config) : List Event := (windowFrames c).flatMap fun f => frameEvents f.1 f.2

/-- R131, R132: the events of a table entry on its success path. -/
def entryEvents : CommandEntry → List Event
  | .command op ps => frameEvents .low [op] ++ frameEvents .high ps
  | .delay n => [.wait n]

/-- R120: the six events of RESET. -/
def resetEvents : List Event :=
  [.line .rst .high .ok, .wait 100, .line .rst .low .ok, .wait 100, .line .rst .high .ok, .wait 100]

/-- R136: the number of Command entries of a table. -/
def commandCount (t : List CommandEntry) : Nat :=
  t.countP fun e => match e with
    | .command _ _ => true
    | .delay _ => false

/-- R246: the most primitives a host operation issues. -/
def primitiveBound (c : Config) : HostOp → Nat
  | .sendCommand => 4
  | .sendData => 4
  | .reset => 6
  | .initializePanel => 8 * commandCount c.initTable + (tableLen c - commandCount c.initTable)
  | .setFullWindow => 20
  | .clear => 23 + pixelCount c
  | .setBacklight => 1

/-- R71: the host operation an instruction asks for, if it is one. -/
def hostOpOf : Instr → Option HostOp
  | .sendCommand _ => some .sendCommand
  | .sendData _ => some .sendData
  | .reset => some .reset
  | .initializePanel => some .initializePanel
  | .setFullWindow => some .setFullWindow
  | .clear _ => some .clear
  | .setBacklight _ => some .setBacklight
  | .tCommand _ _ => none
  | .tDelay _ => none
  | .caset => none
  | .paset => none
  | .ramwr => none

/-- R180, R84: the operand of SET_BACKLIGHT is a `DUTY_W`-bit value; no other operation has such a premise (the
abstract SEND_DATA takes a list of any length, R75). -/
def DutyFits (c : Config) (i : Instr) : Prop := ∀ d, i = .setBacklight d → d < 2 ^ c.dutyW.val

/-! ## Counting events (R104, R136, R157) -/

/-- The levels the DC writes of a trace ask for, in order. -/
def dcWrites : List Event → List Level
  | [] => []
  | .line .dc v _ :: es => v :: dcWrites es
  | _ :: es => dcWrites es

/-- The levels the CS writes of a trace ask for, in order. -/
def csWrites : List Event → List Level
  | [] => []
  | .line .cs v _ :: es => v :: csWrites es
  | _ :: es => csWrites es

/-- The levels the RST writes of a trace ask for, in order. -/
def rstWrites : List Event → List Level
  | [] => []
  | .line .rst v _ :: es => v :: rstWrites es
  | _ :: es => rstWrites es

/-- The durations of the waits of a trace, in order. -/
def waits : List Event → List Nat
  | [] => []
  | .wait n :: es => n :: waits es
  | _ :: es => waits es

/-- The byte lists of the bursts of a trace, in order. -/
def bursts : List Event → List (List Byte)
  | [] => []
  | .tx bs _ :: es => bs :: bursts es
  | _ :: es => bursts es

/-- R136: the parameter bytes of a table, all entries together. -/
def parameterBytes : List CommandEntry → Nat
  | [] => 0
  | .command _ ps :: t => ps.length + parameterBytes t
  | .delay _ :: t => parameterBytes t

/-- R136: the durations of the Delay entries of a table, in order. -/
def delays : List CommandEntry → List Nat
  | [] => []
  | .command _ _ :: t => delays t
  | .delay n :: t => n :: delays t

/-! ## Frames (what an operation leaves alone) -/

/-- Every byte known to stand in FRAME afterwards was known, with that value, before: no byte is placed. Bytes may
become unknown (log 16). -/
def NothingNewKnown (s t : State) : Prop :=
  ∀ a y, Memory.read t.frameMem a = some y → Memory.read s.frameMem a = some y

/-- What no operation writes: the constants and the table (R25 to R27, R66), and the host's further requests. -/
structure KeepsConstants (s t : State) : Prop where
  cfg : t.cfg = s.cfg
  requests : t.env.requests = s.env.requests
  refusals : t.env.refusals = s.env.refusals

/-- What an operation made of frames alone leaves unchanged: the constants, `RST`, `BL`, and the latches COLOR
and DUTY (R104 e). -/
structure KeepsBesideWire (s t : State) : Prop extends KeepsConstants s t where
  rst : t.rst = s.rst
  bl : t.bl = s.bl
  color : t.color = s.color
  duty : t.duty = s.duty

end Sys2Proof.Machine
end

