-- ==== Sys2Proof/Certificates/Slice0/Obligations.lean ====
section
/-! DEFINITION. The statements for the provers. Each docstring names the rules of spec/ it formalises; "log n" is
notes/assumptions/n.md, a choice of the model's own. -/

open Sys2Proof Sys2Proof.Machine

/-! ## Reset and the invariant -/

/-- R42, R230, R231: after construction, for every configuration, the sequencer is idle, STATUS is Ok, the counters
are 0, the ghost state is Unknown and not streaming, the trace is empty; and the hardware takes the values of R5. Of
these the three opcode bytes are log 10 (PRESUMED) and DUTY_W is log 13 (DESIGN CHOICE).
The levels of CS, DC, RST and BL are not stated: R42 leaves them unspecified (log 12). -/
def Obligations.ConstructionLeavesIdleSequencer : Prop :=
  (∀ c : Config,
    (State.construct c).cfg = c ∧ (State.construct c).busy = false ∧ (State.construct c).inflight = false ∧
    (State.construct c).status = .ok ∧ (State.construct c).tix = 0 ∧ (State.construct c).pixcnt = 0 ∧
    (State.construct c).ctl = .unknown ∧ (State.construct c).stream = false ∧ (State.construct c).trace = []) ∧
  State.reset.cfg.width.val = 240 ∧ State.reset.cfg.height.val = 240 ∧ State.reset.cfg.opCaset = 0x2A ∧
  State.reset.cfg.opPaset = 0x2B ∧ State.reset.cfg.opRamwr = 0x2C ∧ State.reset.cfg.dutyW.val = 16 ∧
  State.reset.cfg.resetHoldMs.val = 100

/-- The invariant, INV-CS and the reading of STREAM (R38) hold of the machine after construction. INV-CS rests here on
CS = 1 at construction, the platform's duty (R39 premise a; log 12). -/
def Obligations.ConstructionMeetsInvariant : Prop :=
  StateInv State.reset ∧ CsInv State.reset ∧ StreamInv State.reset

/-- R24, R29 to R32, R50, R193: every step from a state that meets the invariant leaves one that meets it: FRAME in
canonical form and inside `2*WIDTH*HEIGHT` bytes, no span open, TIX and PIXCNT and BL in range, BUSY exactly inside an
operation, no DelayError in STATUS, pixels placed only while streaming to a Ready controller. -/
def Obligations.StepKeepsInvariant : Prop := ∀ s t : State, StateInv s → step s = .next t → StateInv t

/-- R62, R246, R75: from a state that meets the invariant the machine never faults, and the only thing that stops it
is a byte string at the host port that is no whole request. -/
def Obligations.StepAlwaysGoesOn : Prop :=
  ∀ s : State, StateInv s →
    (∃ t, step s = .next t) ∨
    (s.busy = false ∧ ∃ bytes rest, s.env.requests = bytes :: rest ∧
      decodeHost s.cfg.dutyW.val bytes = .error .notWhole ∧ step s = .refused .notAWholeRequest)

/-! ## The wires -/

/-- R40, R52, R79, R104 (b) (c), R156: whatever the environment answers, the events a step appends keep the wire
discipline: DC is written once before each span and never inside one, bytes go out only inside a span, a command span
carries one burst of one byte, and every span that is opened is closed. -/
def Obligations.EveryStepIsWellFramed : Prop :=
  ∀ s t : State, step s = .next t → ∃ es, t.trace = s.trace ++ es ∧ WellFramed es

/-- R39, INV-CS, R32: with CS high at construction and no failed CS write since the last good release, CS is high
whenever no transaction is in flight; every step keeps this and ends with none in flight. -/
def Obligations.ChipSelectHighBetweenOperations : Prop :=
  ∀ s t : State, s.inflight = false → CsInv s → step s = .next t → CsInv t ∧ t.inflight = false

/-- R9: a line write appends one LINE event and answers as the environment does; on `ok` the line is at the requested
level, on `fail` at its previous level or at the requested one, and GpioError with the cause is yielded; the other two
lines are untouched; the write is issued whatever the line held. -/
def Obligations.LineWriteOutcome : Prop :=
  ∀ (l : Line) (v : Level) (s : State),
    (s.answerAt 0 = .ok →
      (drive l v s).1 = .ok ∧ (drive l v s).2.level l = v ∧
      (drive l v s).2.trace = s.trace ++ [.line l v .ok]) ∧
    (∀ k b c, s.answerAt 0 = .fail k b c →
      (drive l v s).1 = .err .gpio c ∧ (drive l v s).2.level l = (if b then v else s.level l) ∧
      (drive l v s).2.trace = s.trace ++ [.line l v (.fail c)]) ∧
    (∀ l', l' ≠ l → (drive l v s).2.level l' = s.level l')

/-- R10: a burst appends one TX event; on `ok` all its bytes have been sent, in order; on `fail` exactly the first k,
with k at most the length, and SpiError with the cause is yielded. -/
def Obligations.BurstSendsPrefix : Prop :=
  ∀ (bs : List Byte) (s : State),
    (s.answerAt 0 = .ok →
      (burst bs s).1 = .ok ∧ (burst bs s).2.trace = s.trace ++ [.tx bs .ok] ∧
      wireBytes [.tx bs .ok] = bs ∧ (burst bs s).2.sent.reverse = s.sent.reverse ++ bs) ∧
    (∀ k b c, s.answerAt 0 = .fail k b c → ∃ n, n ≤ bs.length ∧ (k ≤ bs.length → n = k) ∧
      (burst bs s).1 = .err .spi c ∧ (burst bs s).2.trace = s.trace ++ [.tx bs (.fail n c)] ∧
      wireBytes [.tx bs (.fail n c)] = bs.take n ∧ (burst bs s).2.sent.reverse = s.sent.reverse ++ bs.take n)

/-! ## SEND_COMMAND and SEND_DATA (40_framing.md) -/

/-- R101, R103: SEND_COMMAND completes from every state, whatever the answers, with the events, the result and the
levels of CS and DC that the table of R103 gives the frame of its opcode byte. CTL becomes Unknown on an error and is
kept otherwise (R37); STREAM is 1 exactly after a completed frame of OP_RAMWR (R38, log 15); the latch OPC, dead after
the return (R33), still holds the opcode (log 25). Frame: RST, BL, the
constants, TIX, PIXCNT and the latches DATA, COLOR, DUTY are unchanged, nothing new becomes known of FRAME, and after a
completed CASET, PASET or RAMWR that found CS high FRAME reads as before (log 16). -/
def Obligations.SendCommandRunsItsFrame : Prop :=
  ∀ (op : Byte) (s : State), ∃ t, exec (.sendCommand op) s = .next t ∧
    t.trace = s.trace ++ (frameRun .low [op] s.answerAt).1 ++ [.ret .sendCommand (frameRun .low [op] s.answerAt).2] ∧
    t.status = (frameRun .low [op] s.answerAt).2 ∧ t.busy = false ∧ t.opc = op ∧
    t.cs = csAfterFrame s.cs s.answerAt ∧ t.dc = levelAfter (s.answerAt 0) s.dc .low ∧
    t.ctl = (if t.status = .ok then s.ctl else .unknown) ∧ (t.stream = true ↔ t.status = .ok ∧ op = s.cfg.opRamwr) ∧
    KeepsBesideWire s t ∧ t.tix = s.tix ∧ t.pixcnt = s.pixcnt ∧ t.data = s.data ∧
    (s.inflight = false → t.inflight = false) ∧ NothingNewKnown s t ∧
    (s.cs = .high → t.status = .ok → isWindowCommand s.cfg op = true → t.frameMem = s.frameMem)

/-- R102, R103: SEND_DATA likewise, for a list of any length, in one burst; STREAM is kept (R38) and CTL as for
SEND_COMMAND (R37); the latch DATA, dead after the return (R33), still holds the list (log 25). Frame: as for
SEND_COMMAND with the latch OPC; outside a pixel stream nothing new becomes known of
FRAME, which reads as before if CS was high (log 16); inside one, nothing new becomes known at or past the number of
bytes sent (log 16, log 18). -/
def Obligations.SendDataRunsItsFrame : Prop :=
  ∀ (bs : List Byte) (s : State), ∃ t, exec (.sendData bs) s = .next t ∧
    t.trace = s.trace ++ (frameRun .high bs s.answerAt).1 ++ [.ret .sendData (frameRun .high bs s.answerAt).2] ∧
    t.status = (frameRun .high bs s.answerAt).2 ∧ t.busy = false ∧ t.data = bs ∧
    t.cs = csAfterFrame s.cs s.answerAt ∧ t.dc = levelAfter (s.answerAt 0) s.dc .high ∧
    KeepsBesideWire s t ∧ t.tix = s.tix ∧ t.pixcnt = s.pixcnt ∧ t.opc = s.opc ∧ t.stream = s.stream ∧
    t.ctl = (if t.status = .ok then s.ctl else .unknown) ∧
    (s.inflight = false → t.inflight = false) ∧
    (s.stream = false → NothingNewKnown s t ∧ (s.cs = .high → t.frameMem = s.frameMem)) ∧
    (∀ a y, (wireBytes (frameRun .high bs s.answerAt).1).length ≤ a → Memory.read t.frameMem a = some y →
      Memory.read s.frameMem a = some y)

/-- R101, R102 (success traces, V1 to V4): with all four answers `ok`, the four events of the frame and the return,
DC at the frame's level and CS high. -/
def Obligations.SendOperationsSucceed : Prop :=
  ∀ s : State, AnswersOk s 4 →
    (∀ op : Byte, ∃ t, exec (.sendCommand op) s = .next t ∧
      t.trace = s.trace ++ [.line .dc .low .ok, .line .cs .low .ok, .tx [op] .ok, .line .cs .high .ok,
        .ret .sendCommand .ok] ∧ t.status = .ok ∧ t.dc = .low ∧ t.cs = .high) ∧
    (∀ bs : List Byte, ∃ t, exec (.sendData bs) s = .next t ∧
      t.trace = s.trace ++ [.line .dc .high .ok, .line .cs .low .ok, .tx bs .ok, .line .cs .high .ok,
        .ret .sendData .ok] ∧ t.status = .ok ∧ t.dc = .high ∧ t.cs = .high)

/-- R104: what a caller may rely on after SEND_COMMAND or SEND_DATA: (a) CS is high if a release was answered `ok`,
and unchanged if no CS write was issued; (b) exactly one DC write, the first event; (c) at most one burst, between the
CS-low and the CS-high write; (d) 4 events on success, 1, 3 or 4 on failure; (e) RST and BL are never written. -/
def Obligations.CallerMayRelyOnFrame : Prop :=
  ∀ (i : Instr) (s t : State), ((∃ op, i = .sendCommand op) ∨ ∃ bs, i = .sendData bs) → exec i s = .next t →
    ∃ es op, t.trace = s.trace ++ es ++ [.ret op t.status] ∧
      (.line .cs .high .ok ∈ es → t.cs = .high) ∧ ((∀ v a, .line .cs v a ∉ es) → t.cs = s.cs) ∧
      (∃ v a rest, es = .line .dc v a :: rest ∧ dcWrites rest = []) ∧
      (bursts es).length ≤ 1 ∧
      (∀ bs a, .tx bs a ∈ es → ∃ e0 r0 r2, es = [e0, .line .cs .low r0, .tx bs a, .line .cs .high r2]) ∧
      (t.status = .ok → es.length = 4) ∧ (t.status ≠ .ok → es.length = 1 ∨ es.length = 3 ∨ es.length = 4) ∧
      rstWrites es = [] ∧ t.rst = s.rst ∧ t.bl = s.bl ∧ ∀ d, .blset d ∉ es

/-! ## RESET (41_reset.md) -/

/-- R120, R122: with every answer `ok`, RESET completes from every state, "regardless of prior line state", with
exactly three RST writes 1, 0, 1, each followed by a wait of 100 ms, and leaves RST high; CTL becomes PostReset and
STREAM 0. Frame: CS, DC, BL, the constants, the latches, TIX and PIXCNT are unchanged. -/
def Obligations.ResetPulsesTheLine : Prop :=
  ∀ s : State, AnswersOk s 3 → ∃ t, exec .reset s = .next t ∧
    t.trace = s.trace ++ [.line .rst .high .ok, .wait 100, .line .rst .low .ok, .wait 100, .line .rst .high .ok,
      .wait 100] ++ [.ret .reset .ok] ∧
    t.rst = .high ∧ t.status = .ok ∧ t.busy = false ∧ t.ctl = .postReset ∧ t.stream = false ∧
    t.cs = s.cs ∧ t.dc = s.dc ∧ t.bl = s.bl ∧ KeepsConstants s t ∧ t.tix = s.tix ∧ t.pixcnt = s.pixcnt ∧
    t.inflight = s.inflight ∧ t.opc = s.opc ∧ t.data = s.data ∧ t.color = s.color ∧ t.duty = s.duty

/-- R121: the three failure traces of RESET: a failed write ends the operation at once, its wait and everything after
it are not performed, the result is GpioError with its cause, RST is at its previous level or the requested one, no
attempt is made to raise it again, and CTL becomes Unknown. No other error can occur. -/
def Obligations.ResetStopsAtFailedWrite : Prop :=
  ∀ (s : State) (k : Nat) (b : Bool) (c : Cause),
    (s.answerAt 0 = .fail k b c → ∃ t, exec .reset s = .next t ∧
      t.trace = s.trace ++ [.line .rst .high (.fail c)] ++ [.ret .reset (.err .gpio c)] ∧
      t.status = .err .gpio c ∧ t.rst = (if b then .high else s.rst) ∧ t.ctl = .unknown) ∧
    (AnswersOk s 1 → s.answerAt 1 = .fail k b c → ∃ t, exec .reset s = .next t ∧
      t.trace = s.trace ++ [.line .rst .high .ok, .wait 100, .line .rst .low (.fail c)] ++
        [.ret .reset (.err .gpio c)] ∧
      t.status = .err .gpio c ∧ t.rst = (if b then .low else .high) ∧ t.ctl = .unknown) ∧
    (AnswersOk s 2 → s.answerAt 2 = .fail k b c → ∃ t, exec .reset s = .next t ∧
      t.trace = s.trace ++ [.line .rst .high .ok, .wait 100, .line .rst .low .ok, .wait 100,
        .line .rst .high (.fail c)] ++ [.ret .reset (.err .gpio c)] ∧
      t.status = .err .gpio c ∧ t.rst = (if b then .high else .low) ∧ t.ctl = .unknown) ∧
    (∃ t, exec .reset s = .next t ∧ (t.status = .ok ∨ ∃ c', t.status = .err .gpio c'))

/-! ## INITIALIZE and the table entries (42_initialize.md) -/

/-- R130, R134: with every answer `ok`, INITIALIZE completes from every state and for every table, with the events of
the entries in table order and nothing else; TIX ends at TABLE_LEN; CTL becomes Ready from PostReset and Unknown from
anything else (R37). Frame: RST, BL, COLOR, DUTY, PIXCNT and the constants are unchanged and nothing new becomes known of
FRAME. -/
def Obligations.InitializeReplaysTable : Prop :=
  ∀ s : State, AnswersOk s (8 * commandCount s.cfg.initTable) → ∃ t, exec .initializePanel s = .next t ∧
    t.trace = s.trace ++ s.cfg.initTable.flatMap entryEvents ++ [.ret .initializePanel .ok] ∧
    t.tix = tableLen s.cfg ∧ t.status = .ok ∧ t.busy = false ∧
    t.ctl = (if s.ctl = .postReset then .ready else .unknown) ∧
    KeepsBesideWire s t ∧ t.pixcnt = s.pixcnt ∧ NothingNewKnown s t

/-- R133, from the returned error back (that a failing frame makes INITIALIZE return its error is
`Obligations.FirstErrorIsReported`): when INITIALIZE returns an error: the events of the entries before the failing one are all there, complete;
then come those of the failing entry's frames up to the failure and nothing more; TIX holds the failing entry; CTL
becomes Unusable. -/
def Obligations.InitializeStopsAtFirstError : Prop :=
  ∀ (s t : State) (kind : ErrorKind) (c : Cause), exec .initializePanel s = .next t → t.status = .err kind c →
    ∃ before op ps after, s.cfg.initTable = before ++ .command op ps :: after ∧ t.tix = before.length ∧
      (framesRun [(.low, [op]), (.high, ps)] fun i => s.answerAt (i + 8 * commandCount before)).2 = .err kind c ∧
      t.trace = s.trace ++ before.flatMap entryEvents ++
        (framesRun [(.low, [op]), (.high, ps)] fun i => s.answerAt (i + 8 * commandCount before)).1 ++
        [.ret .initializePanel (.err kind c)] ∧
      t.ctl = .unusable

/-- R136: the counts of a successful INITIALIZE over a table of C Command and D Delay entries: `8*C + D` events,
`2*C` bursts, `C + (sum of the parameter counts)` bytes, DC written 0, 1, 0, 1, ..., CS falling and rising `2*C` times,
the table's delays waited for in order; no event for an empty table. -/
def Obligations.InitializeCounts : Prop :=
  ∀ s : State, AnswersOk s (8 * commandCount s.cfg.initTable) →
    ∃ t es, exec .initializePanel s = .next t ∧ t.trace = s.trace ++ es ++ [.ret .initializePanel .ok] ∧
      t.status = .ok ∧
      es.length = 8 * commandCount s.cfg.initTable + (tableLen s.cfg - commandCount s.cfg.initTable) ∧
      (bursts es).length = 2 * commandCount s.cfg.initTable ∧
      (wireBytes es).length = commandCount s.cfg.initTable + parameterBytes s.cfg.initTable ∧
      dcWrites es = (List.replicate (commandCount s.cfg.initTable) [Level.low, Level.high]).flatten ∧
      csWrites es = (List.replicate (2 * commandCount s.cfg.initTable) [Level.low, Level.high]).flatten ∧
      waits es = delays s.cfg.initTable ∧
      (delays s.cfg.initTable).length = tableLen s.cfg - commandCount s.cfg.initTable ∧ rstWrites es = [] ∧
      (s.cfg.initTable = [] → es = [])

/-- R131: T.COMMAND completes from every state: the command frame, then, if it succeeded, the data frame, issued also
for no parameters. On success TIX advances and INITIALIZE goes on; on an error INITIALIZE returns it, TIX
unchanged (R30, R133; that the entry itself ends INITIALIZE is log 7). Frame: RST, BL, COLOR, DUTY, PIXCNT and the
constants are unchanged and nothing new becomes known of FRAME. -/
def Obligations.TableCommandIsTwoFrames : Prop :=
  ∀ (op : Byte) (ps : List Byte) (s : State), ∃ t, exec (.tCommand op ps) s = .next t ∧
    ((framesRun [(.low, [op]), (.high, ps)] s.answerAt).2 = .ok →
      t.trace = s.trace ++ frameEvents .low [op] ++ frameEvents .high ps ∧ t.tix = s.tix + 1 ∧
      t.status = s.status ∧ t.busy = s.busy ∧ t.activity = s.activity ∧ t.dc = .high ∧ t.cs = .high) ∧
    (∀ kind c, (framesRun [(.low, [op]), (.high, ps)] s.answerAt).2 = .err kind c →
      t.trace = s.trace ++ (framesRun [(.low, [op]), (.high, ps)] s.answerAt).1 ++
        [.ret .initializePanel (.err kind c)] ∧
      t.tix = s.tix ∧ t.status = .err kind c ∧ t.busy = false ∧ t.activity = .idle ∧ t.ctl = .unusable) ∧
    KeepsBesideWire s t ∧ t.pixcnt = s.pixcnt ∧ NothingNewKnown s t

/-- R131: T.COMMAND sends the command frame of its opcode and then, if it succeeded, one data frame with all its
parameters; after these events there is at most the return of the operation that ends on an error. With all eight
answers `ok` the events are the eight of the success trace, TIX advances (R30, R130; that an entry is a step of its own
is log 7) and OPC and DATA hold the operands (R33; that they keep their last value is log 25). -/
def Obligations.TableCommandSendsTwoFrames : Prop :=
  ∀ (op : Byte) (ps : List Byte) (s : State), ∃ t, exec (.tCommand op ps) s = .next t ∧
    (∃ rets, (∀ e ∈ rets, ∃ o r, e = .ret o r) ∧ rets.length ≤ 1 ∧
      t.trace = s.trace ++ (framesRun [(.low, [op]), (.high, ps)] s.answerAt).1 ++ rets) ∧
    (AnswersOk s 8 → t.trace = s.trace ++
      [.line .dc .low .ok, .line .cs .low .ok, .tx [op] .ok, .line .cs .high .ok,
        .line .dc .high .ok, .line .cs .low .ok, .tx ps .ok, .line .cs .high .ok]) ∧
    (AnswersOk s 8 → t.tix = s.tix + 1 ∧ t.dc = .high ∧ t.cs = .high ∧ t.opc = op ∧ t.data = ps)

/-- R132: T.DELAY completes from every state with exactly one wait of the specified duration, 0 included (an inference
R132 marks as its own); no line is written and no byte is sent; TIX advances (R30, R130; that the entry itself advances
it is log 7) and everything else is unchanged. -/
def Obligations.TableDelayWaitsOnce : Prop :=
  ∀ (n : Nat) (s : State), ∃ t, exec (.tDelay n) s = .next t ∧ t.trace = s.trace ++ [.wait n] ∧
    t.tix = s.tix + 1 ∧ t = { s with tix := s.tix + 1, log := .wait n :: s.log }

/-! ## SET_FULL_WINDOW, its commands, and CLEAR (43_window_clear.md) -/

/-- R151: CASET completes from every state: `frame(0, [OP_CASET])`, then `frame(1, [0, 0, 0, WIDTH-1])`, the fourth
byte being the number `WIDTH-1`. On success the window body goes on, with the row step next; on an error its
operation returns it (log 7). Frame: everything beside the wires is unchanged and nothing new becomes known of FRAME,
which on success reads as before if CS was high and the three opcode bytes differ (log 16). -/
def Obligations.CasetIsColumnStep : Prop :=
  ∀ s : State, ∃ (t : State) (last : Byte), exec .caset s = .next t ∧ last.toNat = s.cfg.width.val - 1 ∧
    ((framesRun [(.low, [s.cfg.opCaset]), (.high, [0x00, 0x00, 0x00, last])] s.answerAt).2 = .ok →
      t.trace = s.trace ++ frameEvents .low [s.cfg.opCaset] ++ frameEvents .high [0x00, 0x00, 0x00, last] ∧
      t.dc = .high ∧ t.cs = .high ∧ t.busy = s.busy ∧ t.status = s.status ∧
      (s.activity = .window .column → t.activity = .window .row) ∧
      (s.activity = .clearing .column → t.activity = .clearing .row) ∧
      (s.cs = .high → s.cfg.opcodesDistinct = true → t.frameMem = s.frameMem)) ∧
    (∀ kind c, (framesRun [(.low, [s.cfg.opCaset]), (.high, [0x00, 0x00, 0x00, last])] s.answerAt).2 = .err kind c →
      t.trace = s.trace ++
        (framesRun [(.low, [s.cfg.opCaset]), (.high, [0x00, 0x00, 0x00, last])] s.answerAt).1 ++
        [.ret (windowOp s.activity) (.err kind c)] ∧
      t.status = .err kind c ∧ t.busy = false ∧ t.activity = .idle ∧ t.ctl = .unknown) ∧
    KeepsBesideWire s t ∧ t.tix = s.tix ∧ t.pixcnt = s.pixcnt ∧ t.opc = s.opc ∧ t.data = s.data ∧ NothingNewKnown s t

/-- R152: PASET likewise, the row step, with `HEIGHT-1`. -/
def Obligations.PasetIsRowStep : Prop :=
  ∀ s : State, ∃ (t : State) (last : Byte), exec .paset s = .next t ∧ last.toNat = s.cfg.height.val - 1 ∧
    ((framesRun [(.low, [s.cfg.opPaset]), (.high, [0x00, 0x00, 0x00, last])] s.answerAt).2 = .ok →
      t.trace = s.trace ++ frameEvents .low [s.cfg.opPaset] ++ frameEvents .high [0x00, 0x00, 0x00, last] ∧
      t.dc = .high ∧ t.cs = .high ∧ t.busy = s.busy ∧ t.status = s.status ∧
      (s.activity = .window .row → t.activity = .window .memory) ∧
      (s.activity = .clearing .row → t.activity = .clearing .memory) ∧
      (s.cs = .high → s.cfg.opcodesDistinct = true → t.frameMem = s.frameMem)) ∧
    (∀ kind c, (framesRun [(.low, [s.cfg.opPaset]), (.high, [0x00, 0x00, 0x00, last])] s.answerAt).2 = .err kind c →
      t.trace = s.trace ++
        (framesRun [(.low, [s.cfg.opPaset]), (.high, [0x00, 0x00, 0x00, last])] s.answerAt).1 ++
        [.ret (windowOp s.activity) (.err kind c)] ∧
      t.status = .err kind c ∧ t.busy = false ∧ t.activity = .idle ∧ t.ctl = .unknown) ∧
    KeepsBesideWire s t ∧ t.tix = s.tix ∧ t.pixcnt = s.pixcnt ∧ t.opc = s.opc ∧ t.data = s.data ∧ NothingNewKnown s t

/-- R153: RAMWR completes from every state: `frame(0, [OP_RAMWR])` with no data frame; on success DC is low, CS high
and STREAM 1 (R38), and FRAME reads as before if CS was high (log 16). -/
def Obligations.RamwrIsMemoryWriteStep : Prop :=
  ∀ s : State, ∃ t, exec .ramwr s = .next t ∧
    ((frameRun .low [s.cfg.opRamwr] s.answerAt).2 = .ok →
      t.trace = s.trace ++ frameEvents .low [s.cfg.opRamwr] ∧ t.dc = .low ∧ t.cs = .high ∧ t.stream = true ∧
      t.busy = s.busy ∧ t.status = s.status ∧ (s.cs = .high → t.frameMem = s.frameMem) ∧
      (s.activity = .window .memory → t.activity = .window .close) ∧
      (s.activity = .clearing .memory → t.activity = .clearing .close)) ∧
    (∀ kind c, (frameRun .low [s.cfg.opRamwr] s.answerAt).2 = .err kind c →
      t.trace = s.trace ++ (frameRun .low [s.cfg.opRamwr] s.answerAt).1 ++
        [.ret (windowOp s.activity) (.err kind c)] ∧
      t.status = .err kind c ∧ t.busy = false ∧ t.activity = .idle ∧ t.ctl = .unknown) ∧
    KeepsBesideWire s t ∧ t.tix = s.tix ∧ t.pixcnt = s.pixcnt ∧ t.opc = s.opc ∧ t.data = s.data ∧ NothingNewKnown s t

/-- R151, R152, R153: the column step is `frame(0, [OP_CASET])`, then `frame(1, [0, 0, 0, WIDTH-1])`; the row step
the same with `OP_PASET` and `HEIGHT-1`; the memory-write step is `frame(0, [OP_RAMWR])` and leaves DC low and CS high.
After these events there is at most the return of the operation that ends on an error (log 7). -/
def Obligations.WindowCommandsSendTheirFrames : Prop :=
  ∀ s : State,
    (∃ (t : State) (last : Byte) (rets : List Event), exec .caset s = .next t ∧ last.toNat = s.cfg.width.val - 1 ∧
      (∀ e ∈ rets, ∃ o r, e = .ret o r) ∧ rets.length ≤ 1 ∧
      t.trace = s.trace ++
        (framesRun [(.low, [s.cfg.opCaset]), (.high, [0x00, 0x00, 0x00, last])] s.answerAt).1 ++ rets ∧
      (AnswersOk s 8 → t.trace = s.trace ++
        [.line .dc .low .ok, .line .cs .low .ok, .tx [s.cfg.opCaset] .ok, .line .cs .high .ok,
          .line .dc .high .ok, .line .cs .low .ok, .tx [0x00, 0x00, 0x00, last] .ok, .line .cs .high .ok])) ∧
    (∃ (t : State) (last : Byte) (rets : List Event), exec .paset s = .next t ∧ last.toNat = s.cfg.height.val - 1 ∧
      (∀ e ∈ rets, ∃ o r, e = .ret o r) ∧ rets.length ≤ 1 ∧
      t.trace = s.trace ++
        (framesRun [(.low, [s.cfg.opPaset]), (.high, [0x00, 0x00, 0x00, last])] s.answerAt).1 ++ rets ∧
      (AnswersOk s 8 → t.trace = s.trace ++
        [.line .dc .low .ok, .line .cs .low .ok, .tx [s.cfg.opPaset] .ok, .line .cs .high .ok,
          .line .dc .high .ok, .line .cs .low .ok, .tx [0x00, 0x00, 0x00, last] .ok, .line .cs .high .ok])) ∧
    ∃ (t : State) (rets : List Event), exec .ramwr s = .next t ∧
      (∀ e ∈ rets, ∃ o r, e = .ret o r) ∧ rets.length ≤ 1 ∧
      t.trace = s.trace ++ (framesRun [(.low, [s.cfg.opRamwr])] s.answerAt).1 ++ rets ∧
      (AnswersOk s 4 → t.dc = .low ∧ t.cs = .high ∧ t.trace = s.trace ++
        [.line .dc .low .ok, .line .cs .low .ok, .tx [s.cfg.opRamwr] .ok, .line .cs .high .ok])

/-- R150, R88: SET_FULL_WINDOW completes from every state with the events of its five frames up to the first failure,
and returns the first error. With every answer `ok` these are the twenty events of R150, DC is low, CS high, STREAM 1.
Frame: everything beside the wires is unchanged and nothing new becomes known of FRAME, which on success reads as before
if CS was high and the three opcode bytes differ (log 16). -/
def Obligations.SetFullWindowIsFiveFrames : Prop :=
  ∀ s : State, ∃ t, exec .setFullWindow s = .next t ∧
    t.trace = s.trace ++ (framesRun (windowFrames s.cfg) s.answerAt).1 ++
      [.ret .setFullWindow (framesRun (windowFrames s.cfg) s.answerAt).2] ∧
    t.status = (framesRun (windowFrames s.cfg) s.answerAt).2 ∧ t.busy = false ∧
    (AnswersOk s 20 →
      t.trace = s.trace ++ windowEvents s.cfg ++ [.ret .setFullWindow .ok] ∧ (windowEvents s.cfg).length = 20 ∧
      t.status = .ok ∧ t.dc = .low ∧ t.cs = .high ∧ t.stream = true) ∧
    (t.status = .ok → s.cs = .high → s.cfg.opcodesDistinct = true → t.frameMem = s.frameMem) ∧
    KeepsBesideWire s t ∧ t.tix = s.tix ∧ t.pixcnt = s.pixcnt ∧ t.opc = s.opc ∧ t.data = s.data ∧ NothingNewKnown s t

/-- R154, S4: with every answer `ok`, CLEAR completes from every state and for every colour: the twenty window events,
DC high, CS low, exactly `WIDTH*HEIGHT` bursts of the colour's two bytes, high byte first, CS high. The latch COLOR, dead
after the return (R33), still holds the colour (log 25). Frame: RST, BL, DUTY, TIX and the constants are unchanged, and
nothing new becomes known of FRAME (log 16) from `2*WIDTH*HEIGHT` on, two bytes a pixel (log 29). -/
def Obligations.ClearStreamsEveryPixel : Prop :=
  ∀ (color : Color) (s : State), AnswersOk s (23 + pixelCount s.cfg) → ∃ t, exec (.clear color) s = .next t ∧
    t.trace = s.trace ++ windowEvents s.cfg ++ [.line .dc .high .ok, .line .cs .low .ok] ++
      List.replicate (pixelCount s.cfg)
        (.tx [BitVec.ofNat 8 (color.toNat / 256), BitVec.ofNat 8 (color.toNat % 256)] .ok) ++
      [.line .cs .high .ok, .ret .clear .ok] ∧
    t.pixcnt = pixelCount s.cfg ∧ t.status = .ok ∧ t.busy = false ∧ t.dc = .high ∧ t.cs = .high ∧
    t.stream = true ∧ t.color = color ∧
    t.rst = s.rst ∧ t.bl = s.bl ∧ t.duty = s.duty ∧ t.tix = s.tix ∧ t.opc = s.opc ∧ t.data = s.data ∧
    KeepsConstants s t ∧
    ∀ a y, frameBytes s.cfg ≤ a → Memory.read t.frameMem a = some y → Memory.read s.frameMem a = some y

/-- R155: the failure paths of CLEAR, in order of occurrence: (1) a frame of the window part fails; (2) the span's DC
write fails; (3) its CS-low write fails; (4) pixel burst number p fails after k of its two bytes; (5) only the release
fails. In (3), (4) the release is issued and its own error is discarded; CTL becomes Unknown. -/
def Obligations.ClearFailurePaths : Prop :=
  ∀ (color : Color) (s : State), ∃ t, exec (.clear color) s = .next t ∧
    (∀ kind c, (framesRun (windowFrames s.cfg) s.answerAt).2 = .err kind c →
      t.trace = s.trace ++ (framesRun (windowFrames s.cfg) s.answerAt).1 ++ [.ret .clear (.err kind c)] ∧
      t.status = .err kind c ∧ t.ctl = .unknown) ∧
    (∀ k b c, AnswersOk s 20 → s.answerAt 20 = .fail k b c →
      t.trace = s.trace ++ windowEvents s.cfg ++ [.line .dc .high (.fail c), .ret .clear (.err .gpio c)] ∧
      t.status = .err .gpio c ∧ t.cs = .high ∧ t.ctl = .unknown) ∧
    (∀ k b c, AnswersOk s 21 → s.answerAt 21 = .fail k b c →
      t.trace = s.trace ++ windowEvents s.cfg ++ [.line .dc .high .ok, .line .cs .low (.fail c),
        .line .cs .high (lineAnswer (s.answerAt 22)), .ret .clear (.err .gpio c)] ∧
      t.status = .err .gpio c ∧ (s.answerAt 22 = .ok → t.cs = .high) ∧ t.ctl = .unknown) ∧
    (∀ p k b c, p < pixelCount s.cfg → AnswersOk s (22 + p) → s.answerAt (22 + p) = .fail k b c →
      t.trace = s.trace ++ windowEvents s.cfg ++ [.line .dc .high .ok, .line .cs .low .ok] ++
        List.replicate p (.tx (pix color) .ok) ++
        [.tx (pix color) (.fail (min k 2) c), .line .cs .high (lineAnswer (s.answerAt (23 + p))),
          .ret .clear (.err .spi c)] ∧
      t.pixcnt = p ∧ t.status = .err .spi c ∧ (s.answerAt (23 + p) = .ok → t.cs = .high) ∧ t.ctl = .unknown) ∧
    (∀ k b c, AnswersOk s (22 + pixelCount s.cfg) → s.answerAt (22 + pixelCount s.cfg) = .fail k b c →
      t.trace = s.trace ++ windowEvents s.cfg ++ [.line .dc .high .ok, .line .cs .low .ok] ++
        List.replicate (pixelCount s.cfg) (.tx (pix color) .ok) ++
        [.line .cs .high (.fail c), .ret .clear (.err .gpio c)] ∧
      t.pixcnt = pixelCount s.cfg ∧ t.status = .err .gpio c ∧ t.ctl = .unknown)

/-- R157: the counts of a successful CLEAR: `20 + 2 + WIDTH*HEIGHT + 1` events, `11 + 2*WIDTH*HEIGHT` bytes,
`5 + WIDTH*HEIGHT` bursts, CS falling and rising six times, DC written 0, 1, 0, 1, 0, 1; at most 65536 pixels. -/
def Obligations.ClearCounts : Prop :=
  ∀ (color : Color) (s : State), AnswersOk s (23 + pixelCount s.cfg) →
    ∃ t es, exec (.clear color) s = .next t ∧ t.trace = s.trace ++ es ++ [.ret .clear .ok] ∧
      es.length = 20 + 2 + pixelCount s.cfg + 1 ∧
      (wireBytes es).length = 1 + 4 + 1 + 4 + 1 + 2 * pixelCount s.cfg ∧
      (bursts es).length = 5 + pixelCount s.cfg ∧
      csWrites es = [.low, .high, .low, .high, .low, .high, .low, .high, .low, .high, .low, .high] ∧
      dcWrites es = [.low, .high, .low, .high, .low, .high] ∧ pixelCount s.cfg ≤ 65536

/-! ## SET_BACKLIGHT (44_backlight.md) -/

/-- R180: SET_BACKLIGHT completes from every state and for every `DUTY_W`-bit duty, whatever the environment would
answer: the duty is forwarded once, unchanged, the result is Ok. Frame: everything else is unchanged (what has been
seen of the window protocol is kept on a Ready controller only, log 17). -/
def Obligations.SetBacklightForwardsDuty : Prop :=
  ∀ (d : Nat) (s : State), d < 2 ^ s.cfg.dutyW.val → ∃ t, exec (.setBacklight d) s = .next t ∧
    t.trace = s.trace ++ [.blset d, .ret .setBacklight .ok] ∧ t.bl = d ∧ t.status = .ok ∧ t.busy = false ∧
    t.cs = s.cs ∧ t.dc = s.dc ∧ t.rst = s.rst ∧ t.inflight = s.inflight ∧ t.cfg = s.cfg ∧ t.env = s.env ∧
    t.tix = s.tix ∧ t.pixcnt = s.pixcnt ∧ t.opc = s.opc ∧ t.data = s.data ∧ t.color = s.color ∧
    t.ctl = s.ctl ∧ t.stream = s.stream ∧ t.frameMem = s.frameMem

/-- R84, R74: a duty of more than `DUTY_W` bits spells no operation: nothing changes but the report to the host
(log 5). -/
def Obligations.OverwideDutyRefused : Prop :=
  ∀ (d : Nat) (s : State), ¬ d < 2 ^ s.cfg.dutyW.val →
    exec (.setBacklight d) s = .next { s with env := { s.env with refusals := s.env.refusals + 1 } }

/-! ## Whole-machine rules -/

/-- R21 to R24, R30, R31, R25, R26: who writes what. Only SET_BACKLIGHT changes BL, only RESET changes RST, only
INITIALIZE and its entries change TIX, only CLEAR changes PIXCNT, only SEND_DATA and CLEAR place bytes in FRAME as far
as it is known (log 16); RESET, SET_BACKLIGHT and T.DELAY never change CS or DC; nothing changes the constants and the
table. -/
def Obligations.OnlyNamedWritersWrite : Prop :=
  ∀ (i : Instr) (s t : State), exec i s = .next t →
    (t.bl ≠ s.bl → ∃ d, i = .setBacklight d) ∧
    (t.rst ≠ s.rst → i = .reset) ∧
    (t.tix ≠ s.tix → i = .initializePanel ∨ (∃ op ps, i = .tCommand op ps) ∨ ∃ n, i = .tDelay n) ∧
    (t.pixcnt ≠ s.pixcnt → ∃ color, i = .clear color) ∧
    (¬ NothingNewKnown s t → (∃ bs, i = .sendData bs) ∨ ∃ color, i = .clear color) ∧
    ((t.cs ≠ s.cs ∨ t.dc ≠ s.dc) → i ≠ .reset ∧ (∀ d, i ≠ .setBacklight d) ∧ ∀ n, i ≠ .tDelay n) ∧
    t.cfg = s.cfg

/-- R66, R51: no step writes TABLE or any other constant, so a table read always sees the constructed contents. -/
def Obligations.StepNeverWritesConstants : Prop := ∀ s t : State, step s = .next t → t.cfg = s.cfg

/-- R28, R197, R198: every host operation ends by writing STATUS and appending RET with the same result, not busy and
idle; and that result is the error of the first event that failed, in trace order, or Ok if none did. -/
def Obligations.FirstErrorIsReported : Prop :=
  ∀ (i : Instr) (op : HostOp) (s t : State), hostOpOf i = some op → DutyFits s.cfg i → exec i s = .next t →
    ∃ es, t.trace = s.trace ++ es ++ [.ret op t.status] ∧ t.status = firstFailure es ∧ t.busy = false ∧
      t.activity = .idle

/-- R193: DelayError is never raised: no step writes it to STATUS or appends a RET event that carries it. -/
def Obligations.DelayErrorNeverRaised : Prop :=
  ∀ (s t : State) (c : Cause), step s = .next t →
    (t.status = .err .delay c → s.status = .err .delay c) ∧
    ∃ es, t.trace = s.trace ++ es ∧ ∀ op, .ret op (.err .delay c) ∉ es

/-- R238, R134: no operation reads STATUS, the ghost state, the line levels, or any record of what ran before: in two
states with the same constants and the same answers to come, a host operation appends the same events and returns the
same result. -/
def Obligations.OperationsReadNoHistory : Prop :=
  ∀ (i : Instr) (op : HostOp) (s s' t t' : State), hostOpOf i = some op → DutyFits s.cfg i → s.cfg = s'.cfg →
    (∀ n, s.answerAt n = s'.answerAt n) → exec i s = .next t → exec i s' = .next t' →
    ∃ es, t.trace = s.trace ++ es ∧ t'.trace = s'.trace ++ es ∧ t.status = t'.status

/-- R194, D12: the cause an error carries is opaque: the sequencer "carries it and never inspects it". In two states
with the same constants, where the answers to the requests the operation may issue (R246) differ in the names of their
causes alone, by any renaming, a host operation appends the same events and returns the same result but for these
names (the OPEN type itself: log 3). -/
def Obligations.OperationsNeverInspectCauses : Prop :=
  ∀ (f : Cause → Cause) (i : Instr) (op : HostOp) (s s' t t' : State), hostOpOf i = some op → DutyFits s.cfg i →
    s.cfg = s'.cfg → (∀ n, n < primitiveBound s.cfg op → s'.answerAt n = renameAnswer f (s.answerAt n)) →
    exec i s = .next t → exec i s' = .next t' →
    ∃ es, t.trace = s.trace ++ es ∧ t'.trace = s'.trace ++ es.map (renameEvent f) ∧
      t'.status = renameResult f t.status

/-- R246: whatever the answers, a host operation issues at most as many primitives as its rule bounds. -/
def Obligations.PrimitivesAreBounded : Prop :=
  ∀ (i : Instr) (op : HostOp) (s t : State), hostOpOf i = some op → DutyFits s.cfg i → exec i s = .next t →
    ∃ es r, t.trace = s.trace ++ es ++ [.ret op r] ∧ es.length ≤ primitiveBound s.cfg op

/-- R37: the ghost CTL after every operation's return. -/
def Obligations.ControllerConditionFollowsResults : Prop :=
  ∀ (i : Instr) (s t : State), exec i s = .next t →
    (i = .reset → t.ctl = (if t.status = .ok then .postReset else .unknown)) ∧
    (i = .initializePanel →
      t.ctl = (if t.status ≠ .ok then .unusable else if s.ctl = .postReset then .ready else .unknown)) ∧
    (((∃ op, i = .sendCommand op) ∨ (∃ bs, i = .sendData bs) ∨ i = .setFullWindow ∨ ∃ color, i = .clear color) →
      t.ctl = (if t.status = .ok then s.ctl else .unknown)) ∧
    ((∃ d, i = .setBacklight d) → t.ctl = s.ctl)

/-- R38: the ghost STREAM after every instruction: 1 after a command frame of OP_RAMWR that completed without error, 0
after any other command frame (a failed one: log 15) and after RESET (a failed one: log 15), unchanged by data frames,
delays and SET_BACKLIGHT. What a composite leaves is what its last command frame left: of INITIALIZE that of the last
Command entry it reached; of SET_FULL_WINDOW and CLEAR, with three different opcode bytes, that of RAMWR if the window
part succeeded. (With equal opcode bytes `Obligations.StreamIsReadFromTheTrace` says it.) -/
def Obligations.StreamFollowsCommandFrames : Prop :=
  ∀ (s t : State),
    (∀ op, exec (.sendCommand op) s = .next t → (t.stream = true ↔ t.status = .ok ∧ op = s.cfg.opRamwr)) ∧
    (∀ bs, exec (.sendData bs) s = .next t → t.stream = s.stream) ∧
    (exec .reset s = .next t → t.stream = false) ∧
    (exec .initializePanel s = .next t →
      (commandCount s.cfg.initTable = 0 → t.stream = s.stream) ∧
      (∀ before op ps after, t.status = .ok → s.cfg.initTable = before ++ .command op ps :: after →
        commandCount after = 0 → (t.stream = true ↔ op = s.cfg.opRamwr)) ∧
      (∀ kind c before op ps after, t.status = .err kind c → s.cfg.initTable = before ++ .command op ps :: after →
        t.tix = before.length →
        (t.stream = true ↔
          (frameRun .low [op] fun i => s.answerAt (i + 8 * commandCount before)).2 = .ok ∧ op = s.cfg.opRamwr))) ∧
    (exec .setFullWindow s = .next t →
      (t.status = .ok → t.stream = true) ∧
      (s.cfg.opcodesDistinct = true → (t.stream = true ↔ t.status = .ok))) ∧
    (∀ color, exec (.clear color) s = .next t →
      ((framesRun (windowFrames s.cfg) s.answerAt).2 = .ok → t.stream = true) ∧
      (s.cfg.opcodesDistinct = true → (t.stream = true ↔ (framesRun (windowFrames s.cfg) s.answerAt).2 = .ok))) ∧
    (∀ d, exec (.setBacklight d) s = .next t → t.stream = s.stream) ∧
    (∀ op ps, exec (.tCommand op ps) s = .next t →
      (t.stream = true ↔ (frameRun .low [op] s.answerAt).2 = .ok ∧ op = s.cfg.opRamwr)) ∧
    (∀ n, exec (.tDelay n) s = .next t → t.stream = s.stream) ∧
    (exec .caset s = .next t →
      (t.stream = true ↔ (frameRun .low [s.cfg.opCaset] s.answerAt).2 = .ok ∧ s.cfg.opCaset = s.cfg.opRamwr)) ∧
    (exec .paset s = .next t →
      (t.stream = true ↔ (frameRun .low [s.cfg.opPaset] s.answerAt).2 = .ok ∧ s.cfg.opPaset = s.cfg.opRamwr)) ∧
    (exec .ramwr s = .next t → (t.stream = true ↔ (frameRun .low [s.cfg.opRamwr] s.answerAt).2 = .ok))

/-- R38: STREAM is a function of the trace since construction: what the trace shows of DC, the opcode bytes, the
releases and RST decides it (`streamNext`; log 15 for the frames and pulses that failed), for every configuration,
whatever the environment answers; and every step keeps this. -/
def Obligations.StreamIsReadFromTheTrace : Prop :=
  ∀ s t : State, StreamInv s → step s = .next t → StreamInv t

/-! ## FRAME -/

/-- R53, R158: after a successful CLEAR of a Ready controller with CS high before, every pixel of the full window holds
the colour, high byte first. That positions are known of a Ready controller only is log 16, log 17; that a pixel is two
bytes whatever the table is log 29. -/
def Obligations.ClearFillsTheWindow : Prop :=
  ∀ (color : Color) (s : State), AnswersOk s (23 + pixelCount s.cfg) → s.ctl = .ready → s.cs = .high →
    ∃ t, exec (.clear color) s = .next t ∧
      ∀ x y, x < s.cfg.width.val → y < s.cfg.height.val →
        Memory.read t.frameMem (pixelAddress s.cfg x y) = some (BitVec.ofNat 8 (color.toNat / 256)) ∧
        Memory.read t.frameMem (pixelAddress s.cfg x y + 1) = some (BitVec.ofNat 8 (color.toNat % 256))

/-- R240, R53, P2: one SEND_DATA of whole pixels, of up to `2*WIDTH*HEIGHT` bytes, after a SET_FULL_WINDOW of a Ready
controller, lands row-major from (0,0): pixel i at column `i mod WIDTH`, row `i div WIDTH`; every other byte of FRAME
reads as before (log 16, log 17). That a pixel is two bytes whatever the table is log 29. -/
def Obligations.HostPixelsLandRowMajor : Prop :=
  ∀ (bs : List Byte) (s : State), AnswersOk s 24 → s.ctl = .ready → s.cs = .high → s.cfg.opcodesDistinct = true →
    bs.length % 2 = 0 → bs.length ≤ frameBytes s.cfg →
    ∃ t u, exec .setFullWindow s = .next t ∧ exec (.sendData bs) t = .next u ∧
      (∀ i hi lo, bs[2 * i]? = some hi → bs[2 * i + 1]? = some lo →
        Memory.read u.frameMem (pixelAddress s.cfg (pixelColumn s.cfg i) (pixelRow s.cfg i)) = some hi ∧
        Memory.read u.frameMem (pixelAddress s.cfg (pixelColumn s.cfg i) (pixelRow s.cfg i) + 1) = some lo) ∧
      (∀ a, bs.length ≤ a → Memory.read u.frameMem a = Memory.read s.frameMem a)

/-! ## Refinement: whole operations and their instructions -/

/-- R88, R130: INITIALIZE, run whole, is the walk of the table: from the state inside it at entry 0, `TABLE_LEN + 1`
steps, each fetching `TABLE[TIX]` and running it, and the last returning, lead to the same state. (The host presents
nothing meanwhile, R241.) -/
def Obligations.InitializeIsTheTableWalk : Prop :=
  ∀ s : State, s.env.requests = [] →
    Host.Core.run Sys2Proof.core (tableLen s.cfg + 1) { s.begin .replay with tix := 0 } = exec .initializePanel s

/-- R88, R150, R154: SET_FULL_WINDOW, run whole, is CASET, PASET, RAMWR and its return; CLEAR is the same three, then
its pixel span and return. -/
def Obligations.WindowOperationsAreTheirSteps : Prop :=
  ∀ s : State, s.env.requests = [] →
    Host.Core.run Sys2Proof.core 4 (s.begin (.window .column)) = exec .setFullWindow s ∧
    ∀ color, Host.Core.run Sys2Proof.core 4 { s.begin (.clearing .column) with color := color } = exec (.clear color) s

/-! ## Fetch and encodings -/

/-- R73, R51, R150: a step runs the instruction its bytes decode to, or the entry `TABLE[TIX]`, or the next step of the
window body; idle with no request it waits; at the end of a table or a window body the operation returns. -/
def Obligations.StepRunsTheNextInstruction : Prop :=
  (∀ (s : State) bytes rest i, s.busy = false → s.env.requests = bytes :: rest →
    decodeHost s.cfg.dutyW.val bytes = .ok i → step s = exec i { s with env := { s.env with requests := rest } }) ∧
  (∀ s : State, s.busy = false → s.env.requests = [] → step s = .next s) ∧
  (∀ (s : State) e, s.busy = true → s.activity = .replay → s.cfg.initTable[s.tix]? = some e →
    step s = exec e.toInstr s) ∧
  (∀ s : State, s.busy = true → s.activity = .replay → tableLen s.cfg ≤ s.tix →
    ∃ t, step s = .next t ∧ t.trace = s.trace ++ [.ret .initializePanel .ok] ∧ t.status = .ok ∧ t.busy = false) ∧
  (∀ s : State, s.busy = true → (s.activity = .window .column ∨ s.activity = .clearing .column) →
    step s = exec .caset s) ∧
  (∀ s : State, s.busy = true → (s.activity = .window .row ∨ s.activity = .clearing .row) → step s = exec .paset s) ∧
  (∀ s : State, s.busy = true → (s.activity = .window .memory ∨ s.activity = .clearing .memory) →
    step s = exec .ramwr s) ∧
  (∀ s : State, s.busy = true → s.activity = .window .close →
    ∃ t, step s = .next t ∧ t.trace = s.trace ++ [.ret .setFullWindow .ok] ∧ t.status = .ok ∧ t.busy = false)

/-- R84, R211: byte 0 values 0x00 and 0x08 to 0xFF spell no operation; a reserved request, or a SET_BACKLIGHT operand
with a nonzero bit above `DUTY_W - 1`, is refused: no event, no change of state, STATUS and BUSY included; the request
is taken and the refusal reported to the host (log 5). -/
def Obligations.ReservedRequestsHaveNoEffect : Prop :=
  (∀ (w : Nat) (code : Byte) (rest : List Byte), code = 0 ∨ 8 ≤ code.toNat →
    decodeHost w (code :: rest) = .error (.reservedCode code)) ∧
  (∀ (w : Nat) (operand : List Byte), operand.length = dutyBytes w → 2 ^ w ≤ beNat operand →
    decodeHost w (0x07 :: operand) = .error .reservedDuty) ∧
  (∀ (s : State) bytes rest, s.busy = false → s.env.requests = bytes :: rest →
    ((∃ code, decodeHost s.cfg.dutyW.val bytes = .error (.reservedCode code)) ∨
      decodeHost s.cfg.dutyW.val bytes = .error .reservedDuty) →
    step s = .next { s with env := { s.env with requests := rest, refusals := s.env.refusals + 1 } })

/-- R73, R76, R80 to R82: decoding the encoding of a well-formed instruction gives it back, for all twelve rows and
every operand the encoding admits; on the wire when the three opcode bytes differ. -/
def Obligations.DecodeOfEncode : Prop :=
  ∀ (c : Config) (i : Instr), i.wf c = true → (i.space = .wire → c.opcodesDistinct = true) →
    decode c i.space (encode c i) = .ok i

/-- R73, R76: each accepted byte string has one meaning and is the encoding of it; what is decoded is well-formed and
of its own decode space. -/
def Obligations.EncodeOfDecode : Prop :=
  ∀ (c : Config) (sp : Space) (bytes : List Byte) (i : Instr), decode c sp bytes = .ok i →
    i.space = sp ∧ i.wf c = true ∧ encode c i = bytes

/-- R77: the decoding of table images is injective on well-formed images, and every table with N <= 255 and
`duration_ms` < 2^32 has exactly one image. -/
def Obligations.TableImageRoundTrip : Prop :=
  ∀ (c : Config),
    (∀ t, tableWf c t = true → decodeTable (encodeTable c t) = .ok t) ∧
    (∀ image t, decodeTable image = .ok t → tableWf c t = true ∧ encodeTable c t = image)

/-- R73, R76: words written out from the spec's encodings, one of each format (V50 to V61). The last three clauses take
the wire bytes 0x2A, 0x2B, 0x2C of R80 to R82, which the spec marks as general knowledge: they rest on log 10
(PRESUMED). -/
def Obligations.EncodingsAsTheSpecWritesThem : Prop :=
  decodeHost 16 [0x01, 0x2A] = .ok (.sendCommand 0x2A) ∧
  decodeHost 16 [0x02, 0x00, 0x00, 0x00, 0x04, 0x00, 0x00, 0x00, 0xEF] = .ok (.sendData [0x00, 0x00, 0x00, 0xEF]) ∧
  decodeHost 16 [0x03] = .ok .reset ∧ decodeHost 16 [0x04] = .ok .initializePanel ∧
  decodeHost 16 [0x05] = .ok .setFullWindow ∧ decodeHost 16 [0x06, 0xF8, 0x00] = .ok (.clear 0xF800) ∧
  decodeHost 16 [0x07, 0x80, 0x00] = .ok (.setBacklight 0x8000) ∧
  decodeHost 16 [0x00] = .error (.reservedCode 0x00) ∧
  decodeTable [0x00, 0xA1, 0x02, 0x01, 0x02, 0x01, 0x00, 0x00, 0x00, 0x05, 0x00, 0xB2, 0x00] =
    .ok [.command 0xA1 [0x01, 0x02], .delay 5, .command 0xB2 []] ∧
  decodeTable [0x02] = .error (.reservedTag 0x02) ∧ decodeTable [0x00, 0xA1, 0x02, 0x01] = .error .entryTruncated ∧
  decodeWire Config.standard 0x2A = .ok .caset ∧ decodeWire Config.standard 0x2B = .ok .paset ∧
  decodeWire Config.standard 0x2C = .ok .ramwr

/-- R6, R78, R85: a configuration is built exactly when `1 <= WIDTH <= 256`, `1 <= HEIGHT <= 256`, `DUTY_W >= 1` and
the table image decodes, and then holds the given values; outside the ranges it is refused rather than truncated. -/
def Obligations.ConfigurationOutsideRangeRefused : Prop :=
  ∀ (w h : Nat) (image : List Byte) (o1 o2 o3 : Byte) (d : Nat) (c : Config),
    Config.build w h image o1 o2 o3 d = .ok c ↔
      (1 ≤ w ∧ w ≤ 256) ∧ (1 ≤ h ∧ h ≤ 256) ∧ 1 ≤ d ∧ decodeTable image = .ok c.initTable ∧
      c.width.val = w ∧ c.height.val = h ∧ c.opCaset = o1 ∧ c.opPaset = o2 ∧ c.opRamwr = o3 ∧ c.dutyW.val = d

/-- R195: the coding of STATUS: E = 0, K = 0 for Ok; E = 1 and K = 1, 2, 3 for SpiError, GpioError, DelayError. That
E stands above K in one 3-bit value is log 30 (DESIGN CHOICE): R195 gives no bit positions. -/
def Obligations.StatusCoding : Prop :=
  ∀ s : State,
    (s.status = .ok → s.statusCode = 0b000) ∧
    (∀ c, s.status = .err .spi c → s.statusCode = 0b101) ∧
    (∀ c, s.status = .err .gpio c → s.statusCode = 0b110) ∧
    (∀ c, s.status = .err .delay c → s.statusCode = 0b111)
end

