-- ==== Sys2Proof/Laws/Encoding.lean ====
section
/-! SUPPORT. Big-endian numbers: reading back what was written, both ways (R73, R74). -/

namespace Sys2Proof

@[simp] theorem beBytes_length (n v : Nat) : (beBytes n v).length = n := by
  induction n with
  | zero => rfl
  | succ n ih => simp [beBytes, ih]

theorem beNat_lt (bs : List Byte) : beNat bs < 256 ^ bs.length := by
  induction bs with
  | nil => decide
  | cons b bs ih =>
    have hb : b.toNat + 1 ≤ 256 := b.isLt
    have hmul := Nat.mul_le_mul_right (256 ^ bs.length) hb
    rw [Nat.add_mul, Nat.one_mul] at hmul
    simp only [beNat, List.length_cons, Nat.pow_succ']
    omega

/-- A number's digits depend on the number modulo `256^n` alone. -/
theorem beBytes_mod (n v w : Nat) (h : v % 256 ^ n = w % 256 ^ n) : beBytes n v = beBytes n w := by
  induction n with
  | zero => rfl
  | succ n ih =>
    have hdvd : (256 ^ n) ∣ 256 ^ (n + 1) := Nat.pow_dvd_pow 256 (Nat.le_succ n)
    have hlow : v % 256 ^ n = w % 256 ^ n := by
      rw [← Nat.mod_mod_of_dvd v hdvd, ← Nat.mod_mod_of_dvd w hdvd, h]
    have hhigh : v / 256 ^ n % 256 = w / 256 ^ n % 256 := by
      rw [← Nat.mod_mul_right_div_self, ← Nat.mod_mul_right_div_self, ← Nat.pow_succ, h]
    rw [beBytes, beBytes, ih hlow]
    congr 1
    apply BitVec.eq_of_toNat_eq
    simpa using hhigh

/-- The digits of the number a byte list spells are that list. -/
theorem beBytes_beNat (bs : List Byte) : beBytes bs.length (beNat bs) = bs := by
  induction bs with
  | nil => rfl
  | cons b bs ih =>
    have hlt := beNat_lt bs
    have hpos : 0 < 256 ^ bs.length := Nat.pow_pos (by decide)
    have hdiv : (b.toNat * 256 ^ bs.length + beNat bs) / 256 ^ bs.length = b.toNat := by
      rw [Nat.mul_comm, Nat.mul_add_div hpos, Nat.div_eq_of_lt hlt, Nat.add_zero]
    simp only [List.length_cons, beBytes, beNat, hdiv]
    rw [beBytes_mod _ _ (beNat bs) (by simp), ih]
    simp

/-- A number of at most `n` digits is spelled by its `n` digits. -/
theorem beNat_beBytes (n v : Nat) (h : v < 256 ^ n) : beNat (beBytes n v) = v := by
  induction n generalizing v with
  | zero => simp [beBytes, beNat] at h ⊢; exact h.symm
  | succ n ih =>
    have hpos : 0 < 256 ^ n := Nat.pow_pos (by decide)
    have hq : v / 256 ^ n < 256 := Nat.div_lt_of_lt_mul (by rwa [Nat.pow_succ] at h)
    have hm := Nat.div_add_mod v (256 ^ n)
    simp only [beBytes, beNat, beBytes_length, BitVec.toNat_ofNat]
    rw [beBytes_mod n v (v % 256 ^ n) (Nat.mod_mod _ _).symm, ih _ (Nat.mod_lt _ hpos), Nat.mod_eq_of_lt hq,
      Nat.mul_comm]
    exact hm

end Sys2Proof
end

