-- ==== Sys2Proof/Laws/Memory.lean ====
section
/-! SUPPORT. FRAME: every memory operation keeps the canonical form, and reads after a write. -/

namespace Sys2Proof.Machine

/-- The canonical form says that the addresses rise strictly. -/
theorem Memory.wf_iff (m : Memory) : Memory.wf m = true ↔ m.Pairwise fun x y => x.1 < y.1 := by
  induction m with
  | nil => simp [Memory.wf]
  | cons c m ih =>
    cases m with
    | nil => simp [Memory.wf]
    | cons d m =>
      obtain ⟨a, x⟩ := c
      obtain ⟨b, y⟩ := d
      simp only [Memory.wf, Bool.and_eq_true, decide_eq_true_eq, ih]
      constructor
      · rintro ⟨hab, hp⟩
        refine List.pairwise_cons.2 ⟨?_, hp⟩
        intro e he
        rcases List.mem_cons.1 he with rfl | he'
        · exact hab
        · exact Nat.lt_trans hab ((List.pairwise_cons.1 hp).1 e he')
      · intro hp
        exact ⟨(List.pairwise_cons.1 hp).1 (b, y) (List.mem_cons_self ..), (List.pairwise_cons.1 hp).2⟩

/-- A run holds the addresses from its start on, as many as it has bytes. -/
theorem Memory.mem_run {a : Nat} {bs : List Byte} {c : Host.Cell} (h : c ∈ Memory.run a bs) :
    a ≤ c.1 ∧ c.1 < a + bs.length := by
  induction bs generalizing a with
  | nil => simp [Memory.run] at h
  | cons b bs ih =>
    rcases List.mem_cons.1 h with rfl | h
    · simp
    · have := ih h
      simp only [List.length_cons]
      omega

theorem Memory.wf_run (a : Nat) (bs : List Byte) : Memory.wf (Memory.run a bs) = true := by
  rw [Memory.wf_iff]
  induction bs generalizing a with
  | nil => simp [Memory.run]
  | cons b bs ih =>
    refine List.pairwise_cons.2 ⟨?_, ih (a + 1)⟩
    intro c hc
    have := Memory.mem_run hc
    simp only
    omega

theorem Memory.wf_filter {m : Memory} (p : Host.Cell → Bool) (h : Memory.wf m = true) :
    Memory.wf (m.filter p) = true := by
  rw [Memory.wf_iff] at h ⊢
  exact h.filter p

theorem Memory.wf_forget {m : Memory} (a n : Nat) (h : Memory.wf m = true) : Memory.wf (Memory.forget m a n) = true :=
  Memory.wf_filter _ h

/-- A store keeps the canonical form. -/
theorem Memory.wf_store {m : Memory} (a : Nat) (bs : List Byte) (h : Memory.wf m = true) :
    Memory.wf (Memory.store m a bs) = true := by
  have h1 := (Memory.wf_iff _).1 (Memory.wf_filter (fun c => decide (c.1 < a)) h)
  have h2 := (Memory.wf_iff _).1 (Memory.wf_run a bs)
  have h3 := (Memory.wf_iff _).1 (Memory.wf_filter (fun c => decide (a + bs.length ≤ c.1)) h)
  rw [Memory.wf_iff, Memory.store, List.pairwise_append, List.pairwise_append]
  refine ⟨⟨h1, h2, ?_⟩, h3, ?_⟩
  · intro c hc d hd
    have := Memory.mem_run hd
    simp only [List.mem_filter, decide_eq_true_eq] at hc
    omega
  · intro c hc d hd
    simp only [List.mem_filter, decide_eq_true_eq] at hd
    rcases List.mem_append.1 hc with hc | hc
    · simp only [List.mem_filter, decide_eq_true_eq] at hc
      omega
    · have := Memory.mem_run hc
      omega

/-- Streaming pixels keeps the canonical form. -/
theorem Memory.wf_stream {m : Memory} (bs : List Byte) (h : Memory.wf m = true) :
    Memory.wf (Memory.stream m bs) = true :=
  Memory.wf_forget _ _ (Memory.wf_store _ _ h)

/-- In canonical form, a byte is read at an address exactly where the pair is listed. -/
theorem Memory.read_eq_some_iff {m : Memory} (h : Memory.wf m = true) (a : Nat) (y : Byte) :
    Memory.read m a = some y ↔ (a, y) ∈ m := by
  rw [Memory.wf_iff] at h
  induction m with
  | nil => simp [Memory.read]
  | cons c m ih =>
    obtain ⟨b, z⟩ := c
    have hp := List.pairwise_cons.1 h
    by_cases hb : b = a
    · subst hb
      have hnot : (b, y) ∉ m := fun hm => Nat.lt_irrefl b (hp.1 _ hm)
      simp [Memory.read, hnot, eq_comm]
    · have hba : (a, y) ≠ (b, z) := fun he => hb (Prod.mk.inj he).1.symm
      simp [Memory.read, hb, ih hp.2, hba]

theorem Memory.read_append (m m' : Memory) (a : Nat) :
    Memory.read (m ++ m') a = (Memory.read m a).or (Memory.read m' a) := by
  induction m with
  | nil => simp [Memory.read]
  | cons c m ih =>
    obtain ⟨b, z⟩ := c
    by_cases hb : b = a <;> simp [Memory.read, hb, ih]

theorem Memory.read_filter (m : Memory) (p : Nat → Bool) (a : Nat) :
    Memory.read (m.filter fun c => p c.1) a = if p a then Memory.read m a else none := by
  induction m with
  | nil => simp [Memory.read]
  | cons c m ih =>
    obtain ⟨b, z⟩ := c
    by_cases hb : b = a
    · subst hb
      by_cases hp : p b = true <;> simp [hp, Memory.read, ih]
    · by_cases hp : p b = true <;> simp [hp, Memory.read, hb, ih]

theorem Memory.read_run (a : Nat) (bs : List Byte) (x : Nat) :
    Memory.read (Memory.run a bs) x = if a ≤ x then bs[x - a]? else none := by
  induction bs generalizing a with
  | nil => simp [Memory.run, Memory.read]
  | cons b bs ih =>
    by_cases hx : a = x
    · subst hx
      simp [Memory.run, Memory.read]
    · by_cases hle : a ≤ x
      · have h1 : a + 1 ≤ x := by omega
        have h2 : x - a = (x - (a + 1)) + 1 := by omega
        simp [Memory.run, Memory.read, hx, ih, hle, h1, h2]
      · have h1 : ¬ a + 1 ≤ x := by omega
        simp [Memory.run, Memory.read, hx, ih, hle, h1]

/-- A store gives the stored bytes their values and leaves every other address alone. -/
theorem Memory.read_store (m : Memory) (a : Nat) (bs : List Byte) (x : Nat) :
    Memory.read (Memory.store m a bs) x =
      if a ≤ x ∧ x < a + bs.length then bs[x - a]? else Memory.read m x := by
  rw [Memory.store, Memory.read_append, Memory.read_append,
    Memory.read_filter m (fun b => decide (b < a)), Memory.read_filter m (fun b => decide (a + bs.length ≤ b)),
    Memory.read_run]
  by_cases h1 : a ≤ x
  · by_cases h2 : x < a + bs.length
    · have h3 : ¬ x < a := by omega
      have h4 : ¬ a + bs.length ≤ x := by omega
      simp [h1, h2, h3, h4]
    · have h3 : ¬ x < a := by omega
      have h4 : a + bs.length ≤ x := by omega
      have h5 : bs[x - a]? = none := by
        rw [List.getElem?_eq_none_iff]
        omega
      simp [h1, h2, h3, h4, h5]
  · have h3 : x < a := by omega
    have h4 : ¬ a + bs.length ≤ x := by omega
    simp [h1, h3, h4]

theorem Memory.read_forget (m : Memory) (a n x : Nat) :
    Memory.read (Memory.forget m a n) x = if x < a ∨ a + n ≤ x then Memory.read m x else none := by
  rw [Memory.forget, Memory.read_filter m (fun b => decide (b < a ∨ a + n ≤ b))]
  simp

/-- Streaming whole pixels from (0,0) on stores exactly the bytes streamed. -/
theorem Memory.read_stream_even (m : Memory) (bs : List Byte) (he : bs.length % 2 = 0) (x : Nat) :
    Memory.read (Memory.stream m bs) x = if x < bs.length then bs[x]? else Memory.read m x := by
  have hlen : 2 * (bs.length / 2) = bs.length := by omega
  have hx : x < bs.length ∨ bs.length ≤ x := by omega
  rw [Memory.stream, Memory.read_forget, Memory.read_store, hlen, he]
  simp [hx]

/-- What streaming can make of an address: it never lists one at or past the end of the bytes, rounded up to a
whole pixel, that was not listed. -/
theorem Memory.mem_stream {m : Memory} {bs : List Byte} {c : Host.Cell} (h : c ∈ Memory.stream m bs) :
    c.1 < bs.length ∨ c ∈ m := by
  have h' := (List.mem_filter.1 h).1
  rcases List.mem_append.1 h' with h' | h'
  · rcases List.mem_append.1 h' with h' | h'
    · exact .inr (List.mem_filter.1 h').1
    · have := Memory.mem_run h'
      simp only [List.length_take] at this
      omega
  · exact .inr (List.mem_filter.1 h').1

end Sys2Proof.Machine
end

