-- ==== Sys2Proof/Laws/State.lean ====
section
/-! SUPPORT. One lemma per field per update, true by definition, so that no later proof unfolds a record update. -/

namespace Sys2Proof.Machine

variable (s : State)

/-! ## An event appended -/

@[simp] theorem emit_cfg (e : Event) : (s.emit e).cfg = s.cfg := rfl
@[simp] theorem emit_cs (e : Event) : (s.emit e).cs = s.cs := rfl
@[simp] theorem emit_dc (e : Event) : (s.emit e).dc = s.dc := rfl
@[simp] theorem emit_rst (e : Event) : (s.emit e).rst = s.rst := rfl
@[simp] theorem emit_bl (e : Event) : (s.emit e).bl = s.bl := rfl
@[simp] theorem emit_status (e : Event) : (s.emit e).status = s.status := rfl
@[simp] theorem emit_busy (e : Event) : (s.emit e).busy = s.busy := rfl
@[simp] theorem emit_tix (e : Event) : (s.emit e).tix = s.tix := rfl
@[simp] theorem emit_pixcnt (e : Event) : (s.emit e).pixcnt = s.pixcnt := rfl
@[simp] theorem emit_inflight (e : Event) : (s.emit e).inflight = s.inflight := rfl
@[simp] theorem emit_opc (e : Event) : (s.emit e).opc = s.opc := rfl
@[simp] theorem emit_data (e : Event) : (s.emit e).data = s.data := rfl
@[simp] theorem emit_color (e : Event) : (s.emit e).color = s.color := rfl
@[simp] theorem emit_duty (e : Event) : (s.emit e).duty = s.duty := rfl
@[simp] theorem emit_ctl (e : Event) : (s.emit e).ctl = s.ctl := rfl
@[simp] theorem emit_stream (e : Event) : (s.emit e).stream = s.stream := rfl
@[simp] theorem emit_seen (e : Event) : (s.emit e).seen = s.seen := rfl
@[simp] theorem emit_frameMem (e : Event) : (s.emit e).frameMem = s.frameMem := rfl
@[simp] theorem emit_activity (e : Event) : (s.emit e).activity = s.activity := rfl
@[simp] theorem emit_sent (e : Event) : (s.emit e).sent = s.sent := rfl
@[simp] theorem emit_log (e : Event) : (s.emit e).log = e :: s.log := rfl
@[simp] theorem emit_env (e : Event) : (s.emit e).env = s.env := rfl

/-! ## An answer drawn -/

@[simp] theorem draw_cfg : (s.draw).cfg = s.cfg := rfl
@[simp] theorem draw_cs : (s.draw).cs = s.cs := rfl
@[simp] theorem draw_dc : (s.draw).dc = s.dc := rfl
@[simp] theorem draw_rst : (s.draw).rst = s.rst := rfl
@[simp] theorem draw_bl : (s.draw).bl = s.bl := rfl
@[simp] theorem draw_status : (s.draw).status = s.status := rfl
@[simp] theorem draw_busy : (s.draw).busy = s.busy := rfl
@[simp] theorem draw_tix : (s.draw).tix = s.tix := rfl
@[simp] theorem draw_pixcnt : (s.draw).pixcnt = s.pixcnt := rfl
@[simp] theorem draw_inflight : (s.draw).inflight = s.inflight := rfl
@[simp] theorem draw_opc : (s.draw).opc = s.opc := rfl
@[simp] theorem draw_data : (s.draw).data = s.data := rfl
@[simp] theorem draw_color : (s.draw).color = s.color := rfl
@[simp] theorem draw_duty : (s.draw).duty = s.duty := rfl
@[simp] theorem draw_ctl : (s.draw).ctl = s.ctl := rfl
@[simp] theorem draw_stream : (s.draw).stream = s.stream := rfl
@[simp] theorem draw_seen : (s.draw).seen = s.seen := rfl
@[simp] theorem draw_frameMem : (s.draw).frameMem = s.frameMem := rfl
@[simp] theorem draw_activity : (s.draw).activity = s.activity := rfl
@[simp] theorem draw_sent : (s.draw).sent = s.sent := rfl
@[simp] theorem draw_log : (s.draw).log = s.log := rfl
@[simp] theorem draw_env : (s.draw).env = s.env.draw := rfl

/-! ## An operation accepted -/

@[simp] theorem begin_cfg (a : Activity) : (s.begin a).cfg = s.cfg := rfl
@[simp] theorem begin_cs (a : Activity) : (s.begin a).cs = s.cs := rfl
@[simp] theorem begin_dc (a : Activity) : (s.begin a).dc = s.dc := rfl
@[simp] theorem begin_rst (a : Activity) : (s.begin a).rst = s.rst := rfl
@[simp] theorem begin_bl (a : Activity) : (s.begin a).bl = s.bl := rfl
@[simp] theorem begin_status (a : Activity) : (s.begin a).status = s.status := rfl
@[simp] theorem begin_busy (a : Activity) : (s.begin a).busy = true := rfl
@[simp] theorem begin_tix (a : Activity) : (s.begin a).tix = s.tix := rfl
@[simp] theorem begin_pixcnt (a : Activity) : (s.begin a).pixcnt = s.pixcnt := rfl
@[simp] theorem begin_inflight (a : Activity) : (s.begin a).inflight = s.inflight := rfl
@[simp] theorem begin_opc (a : Activity) : (s.begin a).opc = s.opc := rfl
@[simp] theorem begin_data (a : Activity) : (s.begin a).data = s.data := rfl
@[simp] theorem begin_color (a : Activity) : (s.begin a).color = s.color := rfl
@[simp] theorem begin_duty (a : Activity) : (s.begin a).duty = s.duty := rfl
@[simp] theorem begin_ctl (a : Activity) : (s.begin a).ctl = s.ctl := rfl
@[simp] theorem begin_stream (a : Activity) : (s.begin a).stream = s.stream := rfl
@[simp] theorem begin_seen (a : Activity) : (s.begin a).seen = s.seen := rfl
@[simp] theorem begin_frameMem (a : Activity) : (s.begin a).frameMem = s.frameMem := rfl
@[simp] theorem begin_activity (a : Activity) : (s.begin a).activity = a := rfl
@[simp] theorem begin_sent (a : Activity) : (s.begin a).sent = s.sent := rfl
@[simp] theorem begin_log (a : Activity) : (s.begin a).log = s.log := rfl
@[simp] theorem begin_env (a : Activity) : (s.begin a).env = s.env := rfl

/-! ## A request refused -/

@[simp] theorem refuseRequest_cfg : (s.refuseRequest).cfg = s.cfg := rfl
@[simp] theorem refuseRequest_cs : (s.refuseRequest).cs = s.cs := rfl
@[simp] theorem refuseRequest_dc : (s.refuseRequest).dc = s.dc := rfl
@[simp] theorem refuseRequest_rst : (s.refuseRequest).rst = s.rst := rfl
@[simp] theorem refuseRequest_bl : (s.refuseRequest).bl = s.bl := rfl
@[simp] theorem refuseRequest_status : (s.refuseRequest).status = s.status := rfl
@[simp] theorem refuseRequest_busy : (s.refuseRequest).busy = s.busy := rfl
@[simp] theorem refuseRequest_tix : (s.refuseRequest).tix = s.tix := rfl
@[simp] theorem refuseRequest_pixcnt : (s.refuseRequest).pixcnt = s.pixcnt := rfl
@[simp] theorem refuseRequest_inflight : (s.refuseRequest).inflight = s.inflight := rfl
@[simp] theorem refuseRequest_opc : (s.refuseRequest).opc = s.opc := rfl
@[simp] theorem refuseRequest_data : (s.refuseRequest).data = s.data := rfl
@[simp] theorem refuseRequest_color : (s.refuseRequest).color = s.color := rfl
@[simp] theorem refuseRequest_duty : (s.refuseRequest).duty = s.duty := rfl
@[simp] theorem refuseRequest_ctl : (s.refuseRequest).ctl = s.ctl := rfl
@[simp] theorem refuseRequest_stream : (s.refuseRequest).stream = s.stream := rfl
@[simp] theorem refuseRequest_seen : (s.refuseRequest).seen = s.seen := rfl
@[simp] theorem refuseRequest_frameMem : (s.refuseRequest).frameMem = s.frameMem := rfl
@[simp] theorem refuseRequest_activity : (s.refuseRequest).activity = s.activity := rfl
@[simp] theorem refuseRequest_sent : (s.refuseRequest).sent = s.sent := rfl
@[simp] theorem refuseRequest_log : (s.refuseRequest).log = s.log := rfl

/-! ## A request taken -/

@[simp] theorem takeRequest_cfg : (s.takeRequest).cfg = s.cfg := rfl
@[simp] theorem takeRequest_cs : (s.takeRequest).cs = s.cs := rfl
@[simp] theorem takeRequest_dc : (s.takeRequest).dc = s.dc := rfl
@[simp] theorem takeRequest_rst : (s.takeRequest).rst = s.rst := rfl
@[simp] theorem takeRequest_bl : (s.takeRequest).bl = s.bl := rfl
@[simp] theorem takeRequest_status : (s.takeRequest).status = s.status := rfl
@[simp] theorem takeRequest_busy : (s.takeRequest).busy = s.busy := rfl
@[simp] theorem takeRequest_tix : (s.takeRequest).tix = s.tix := rfl
@[simp] theorem takeRequest_pixcnt : (s.takeRequest).pixcnt = s.pixcnt := rfl
@[simp] theorem takeRequest_inflight : (s.takeRequest).inflight = s.inflight := rfl
@[simp] theorem takeRequest_opc : (s.takeRequest).opc = s.opc := rfl
@[simp] theorem takeRequest_data : (s.takeRequest).data = s.data := rfl
@[simp] theorem takeRequest_color : (s.takeRequest).color = s.color := rfl
@[simp] theorem takeRequest_duty : (s.takeRequest).duty = s.duty := rfl
@[simp] theorem takeRequest_ctl : (s.takeRequest).ctl = s.ctl := rfl
@[simp] theorem takeRequest_stream : (s.takeRequest).stream = s.stream := rfl
@[simp] theorem takeRequest_seen : (s.takeRequest).seen = s.seen := rfl
@[simp] theorem takeRequest_frameMem : (s.takeRequest).frameMem = s.frameMem := rfl
@[simp] theorem takeRequest_activity : (s.takeRequest).activity = s.activity := rfl
@[simp] theorem takeRequest_sent : (s.takeRequest).sent = s.sent := rfl
@[simp] theorem takeRequest_log : (s.takeRequest).log = s.log := rfl

/-! ## The table index advanced -/

@[simp] theorem nextEntry_cfg : (s.nextEntry).cfg = s.cfg := rfl
@[simp] theorem nextEntry_cs : (s.nextEntry).cs = s.cs := rfl
@[simp] theorem nextEntry_dc : (s.nextEntry).dc = s.dc := rfl
@[simp] theorem nextEntry_rst : (s.nextEntry).rst = s.rst := rfl
@[simp] theorem nextEntry_bl : (s.nextEntry).bl = s.bl := rfl
@[simp] theorem nextEntry_status : (s.nextEntry).status = s.status := rfl
@[simp] theorem nextEntry_busy : (s.nextEntry).busy = s.busy := rfl
@[simp] theorem nextEntry_tix : (s.nextEntry).tix = s.tix + 1 := rfl
@[simp] theorem nextEntry_pixcnt : (s.nextEntry).pixcnt = s.pixcnt := rfl
@[simp] theorem nextEntry_inflight : (s.nextEntry).inflight = s.inflight := rfl
@[simp] theorem nextEntry_opc : (s.nextEntry).opc = s.opc := rfl
@[simp] theorem nextEntry_data : (s.nextEntry).data = s.data := rfl
@[simp] theorem nextEntry_color : (s.nextEntry).color = s.color := rfl
@[simp] theorem nextEntry_duty : (s.nextEntry).duty = s.duty := rfl
@[simp] theorem nextEntry_ctl : (s.nextEntry).ctl = s.ctl := rfl
@[simp] theorem nextEntry_stream : (s.nextEntry).stream = s.stream := rfl
@[simp] theorem nextEntry_seen : (s.nextEntry).seen = s.seen := rfl
@[simp] theorem nextEntry_frameMem : (s.nextEntry).frameMem = s.frameMem := rfl
@[simp] theorem nextEntry_activity : (s.nextEntry).activity = s.activity := rfl
@[simp] theorem nextEntry_sent : (s.nextEntry).sent = s.sent := rfl
@[simp] theorem nextEntry_log : (s.nextEntry).log = s.log := rfl
@[simp] theorem nextEntry_env : (s.nextEntry).env = s.env := rfl

/-! ## The pixel counter advanced -/

@[simp] theorem nextPixel_cfg : (s.nextPixel).cfg = s.cfg := rfl
@[simp] theorem nextPixel_cs : (s.nextPixel).cs = s.cs := rfl
@[simp] theorem nextPixel_dc : (s.nextPixel).dc = s.dc := rfl
@[simp] theorem nextPixel_rst : (s.nextPixel).rst = s.rst := rfl
@[simp] theorem nextPixel_bl : (s.nextPixel).bl = s.bl := rfl
@[simp] theorem nextPixel_status : (s.nextPixel).status = s.status := rfl
@[simp] theorem nextPixel_busy : (s.nextPixel).busy = s.busy := rfl
@[simp] theorem nextPixel_tix : (s.nextPixel).tix = s.tix := rfl
@[simp] theorem nextPixel_pixcnt : (s.nextPixel).pixcnt = s.pixcnt + 1 := rfl
@[simp] theorem nextPixel_inflight : (s.nextPixel).inflight = s.inflight := rfl
@[simp] theorem nextPixel_opc : (s.nextPixel).opc = s.opc := rfl
@[simp] theorem nextPixel_data : (s.nextPixel).data = s.data := rfl
@[simp] theorem nextPixel_color : (s.nextPixel).color = s.color := rfl
@[simp] theorem nextPixel_duty : (s.nextPixel).duty = s.duty := rfl
@[simp] theorem nextPixel_ctl : (s.nextPixel).ctl = s.ctl := rfl
@[simp] theorem nextPixel_stream : (s.nextPixel).stream = s.stream := rfl
@[simp] theorem nextPixel_seen : (s.nextPixel).seen = s.seen := rfl
@[simp] theorem nextPixel_frameMem : (s.nextPixel).frameMem = s.frameMem := rfl
@[simp] theorem nextPixel_activity : (s.nextPixel).activity = s.activity := rfl
@[simp] theorem nextPixel_sent : (s.nextPixel).sent = s.sent := rfl
@[simp] theorem nextPixel_log : (s.nextPixel).log = s.log := rfl
@[simp] theorem nextPixel_env : (s.nextPixel).env = s.env := rfl

/-! ## The register CS written -/

@[simp] theorem setLevel_cs_cfg (v : Level) : (s.setLevel .cs v).cfg = s.cfg := rfl
@[simp] theorem setLevel_cs_cs (v : Level) : (s.setLevel .cs v).cs = v := rfl
@[simp] theorem setLevel_cs_dc (v : Level) : (s.setLevel .cs v).dc = s.dc := rfl
@[simp] theorem setLevel_cs_rst (v : Level) : (s.setLevel .cs v).rst = s.rst := rfl
@[simp] theorem setLevel_cs_bl (v : Level) : (s.setLevel .cs v).bl = s.bl := rfl
@[simp] theorem setLevel_cs_status (v : Level) : (s.setLevel .cs v).status = s.status := rfl
@[simp] theorem setLevel_cs_busy (v : Level) : (s.setLevel .cs v).busy = s.busy := rfl
@[simp] theorem setLevel_cs_tix (v : Level) : (s.setLevel .cs v).tix = s.tix := rfl
@[simp] theorem setLevel_cs_pixcnt (v : Level) : (s.setLevel .cs v).pixcnt = s.pixcnt := rfl
@[simp] theorem setLevel_cs_inflight (v : Level) : (s.setLevel .cs v).inflight = s.inflight := rfl
@[simp] theorem setLevel_cs_opc (v : Level) : (s.setLevel .cs v).opc = s.opc := rfl
@[simp] theorem setLevel_cs_data (v : Level) : (s.setLevel .cs v).data = s.data := rfl
@[simp] theorem setLevel_cs_color (v : Level) : (s.setLevel .cs v).color = s.color := rfl
@[simp] theorem setLevel_cs_duty (v : Level) : (s.setLevel .cs v).duty = s.duty := rfl
@[simp] theorem setLevel_cs_ctl (v : Level) : (s.setLevel .cs v).ctl = s.ctl := rfl
@[simp] theorem setLevel_cs_stream (v : Level) : (s.setLevel .cs v).stream = s.stream := rfl
@[simp] theorem setLevel_cs_seen (v : Level) : (s.setLevel .cs v).seen = s.seen := rfl
@[simp] theorem setLevel_cs_frameMem (v : Level) : (s.setLevel .cs v).frameMem = s.frameMem := rfl
@[simp] theorem setLevel_cs_activity (v : Level) : (s.setLevel .cs v).activity = s.activity := rfl
@[simp] theorem setLevel_cs_sent (v : Level) : (s.setLevel .cs v).sent = s.sent := rfl
@[simp] theorem setLevel_cs_log (v : Level) : (s.setLevel .cs v).log = s.log := rfl
@[simp] theorem setLevel_cs_env (v : Level) : (s.setLevel .cs v).env = s.env := rfl

/-! ## The register DC written -/

@[simp] theorem setLevel_dc_cfg (v : Level) : (s.setLevel .dc v).cfg = s.cfg := rfl
@[simp] theorem setLevel_dc_cs (v : Level) : (s.setLevel .dc v).cs = s.cs := rfl
@[simp] theorem setLevel_dc_dc (v : Level) : (s.setLevel .dc v).dc = v := rfl
@[simp] theorem setLevel_dc_rst (v : Level) : (s.setLevel .dc v).rst = s.rst := rfl
@[simp] theorem setLevel_dc_bl (v : Level) : (s.setLevel .dc v).bl = s.bl := rfl
@[simp] theorem setLevel_dc_status (v : Level) : (s.setLevel .dc v).status = s.status := rfl
@[simp] theorem setLevel_dc_busy (v : Level) : (s.setLevel .dc v).busy = s.busy := rfl
@[simp] theorem setLevel_dc_tix (v : Level) : (s.setLevel .dc v).tix = s.tix := rfl
@[simp] theorem setLevel_dc_pixcnt (v : Level) : (s.setLevel .dc v).pixcnt = s.pixcnt := rfl
@[simp] theorem setLevel_dc_inflight (v : Level) : (s.setLevel .dc v).inflight = s.inflight := rfl
@[simp] theorem setLevel_dc_opc (v : Level) : (s.setLevel .dc v).opc = s.opc := rfl
@[simp] theorem setLevel_dc_data (v : Level) : (s.setLevel .dc v).data = s.data := rfl
@[simp] theorem setLevel_dc_color (v : Level) : (s.setLevel .dc v).color = s.color := rfl
@[simp] theorem setLevel_dc_duty (v : Level) : (s.setLevel .dc v).duty = s.duty := rfl
@[simp] theorem setLevel_dc_ctl (v : Level) : (s.setLevel .dc v).ctl = s.ctl := rfl
@[simp] theorem setLevel_dc_stream (v : Level) : (s.setLevel .dc v).stream = s.stream := rfl
@[simp] theorem setLevel_dc_seen (v : Level) : (s.setLevel .dc v).seen = s.seen := rfl
@[simp] theorem setLevel_dc_frameMem (v : Level) : (s.setLevel .dc v).frameMem = s.frameMem := rfl
@[simp] theorem setLevel_dc_activity (v : Level) : (s.setLevel .dc v).activity = s.activity := rfl
@[simp] theorem setLevel_dc_sent (v : Level) : (s.setLevel .dc v).sent = s.sent := rfl
@[simp] theorem setLevel_dc_log (v : Level) : (s.setLevel .dc v).log = s.log := rfl
@[simp] theorem setLevel_dc_env (v : Level) : (s.setLevel .dc v).env = s.env := rfl

/-! ## The register RST written -/

@[simp] theorem setLevel_rst_cfg (v : Level) : (s.setLevel .rst v).cfg = s.cfg := rfl
@[simp] theorem setLevel_rst_cs (v : Level) : (s.setLevel .rst v).cs = s.cs := rfl
@[simp] theorem setLevel_rst_dc (v : Level) : (s.setLevel .rst v).dc = s.dc := rfl
@[simp] theorem setLevel_rst_rst (v : Level) : (s.setLevel .rst v).rst = v := rfl
@[simp] theorem setLevel_rst_bl (v : Level) : (s.setLevel .rst v).bl = s.bl := rfl
@[simp] theorem setLevel_rst_status (v : Level) : (s.setLevel .rst v).status = s.status := rfl
@[simp] theorem setLevel_rst_busy (v : Level) : (s.setLevel .rst v).busy = s.busy := rfl
@[simp] theorem setLevel_rst_tix (v : Level) : (s.setLevel .rst v).tix = s.tix := rfl
@[simp] theorem setLevel_rst_pixcnt (v : Level) : (s.setLevel .rst v).pixcnt = s.pixcnt := rfl
@[simp] theorem setLevel_rst_inflight (v : Level) : (s.setLevel .rst v).inflight = s.inflight := rfl
@[simp] theorem setLevel_rst_opc (v : Level) : (s.setLevel .rst v).opc = s.opc := rfl
@[simp] theorem setLevel_rst_data (v : Level) : (s.setLevel .rst v).data = s.data := rfl
@[simp] theorem setLevel_rst_color (v : Level) : (s.setLevel .rst v).color = s.color := rfl
@[simp] theorem setLevel_rst_duty (v : Level) : (s.setLevel .rst v).duty = s.duty := rfl
@[simp] theorem setLevel_rst_ctl (v : Level) : (s.setLevel .rst v).ctl = s.ctl := rfl
@[simp] theorem setLevel_rst_stream (v : Level) : (s.setLevel .rst v).stream = s.stream := rfl
@[simp] theorem setLevel_rst_seen (v : Level) : (s.setLevel .rst v).seen = s.seen := rfl
@[simp] theorem setLevel_rst_frameMem (v : Level) : (s.setLevel .rst v).frameMem = s.frameMem := rfl
@[simp] theorem setLevel_rst_activity (v : Level) : (s.setLevel .rst v).activity = s.activity := rfl
@[simp] theorem setLevel_rst_sent (v : Level) : (s.setLevel .rst v).sent = s.sent := rfl
@[simp] theorem setLevel_rst_log (v : Level) : (s.setLevel .rst v).log = s.log := rfl
@[simp] theorem setLevel_rst_env (v : Level) : (s.setLevel .rst v).env = s.env := rfl

/-! ## The environment -/

@[simp] theorem draw_requests : s.env.draw.requests = s.env.requests := rfl
@[simp] theorem draw_refusals : s.env.draw.refusals = s.env.refusals := rfl
@[simp] theorem draw_drawn : s.env.draw.drawn = s.env.drawn + 1 := rfl
@[simp] theorem refuseRequest_requests : s.refuseRequest.env.requests = s.env.requests := rfl
@[simp] theorem refuseRequest_refusals : s.refuseRequest.env.refusals = s.env.refusals + 1 := rfl
@[simp] theorem takeRequest_requests : s.takeRequest.env.requests = s.env.requests.tail := rfl
@[simp] theorem takeRequest_refusals : s.takeRequest.env.refusals = s.env.refusals := rfl

/-! ## The trace -/

@[simp] theorem trace_emit (e : Event) : (s.emit e).trace = s.trace ++ [e] := by
  simp [State.trace]

/-- The trace is read from the log alone. -/
theorem trace_eq_of_log {s t : State} (h : t.log = s.log) : t.trace = s.trace := by
  simp [State.trace, h]

/-! ## The answers to come -/

/-- R14: after one answer has been drawn, the next ones are those that followed it. -/
theorem Environment.answerAt_draw (e : Environment) (i : Nat) : e.draw.answerAt i = e.answerAt (i + 1) := by
  simp [Environment.answerAt, Environment.draw, Nat.add_assoc, Nat.add_comm 1 i]

@[simp] theorem answerAt_draw (i : Nat) : s.draw.answerAt i = s.answerAt (i + 1) :=
  Environment.answerAt_draw s.env i

/-- The answers to come are read from the environment alone. -/
theorem answerAt_eq_of_env {s t : State} (h : t.env = s.env) (i : Nat) : t.answerAt i = s.answerAt i := by
  simp [State.answerAt, h]

@[simp] theorem answerAt_emit (e : Event) (i : Nat) : (s.emit e).answerAt i = s.answerAt i := rfl
@[simp] theorem answerAt_begin (a : Activity) (i : Nat) : (s.begin a).answerAt i = s.answerAt i := rfl
@[simp] theorem answerAt_nextEntry (i : Nat) : s.nextEntry.answerAt i = s.answerAt i := rfl
@[simp] theorem answerAt_nextPixel (i : Nat) : s.nextPixel.answerAt i = s.answerAt i := rfl
@[simp] theorem answerAt_takeRequest (i : Nat) : s.takeRequest.answerAt i = s.answerAt i := rfl
@[simp] theorem answerAt_refuseRequest (i : Nat) : s.refuseRequest.answerAt i = s.answerAt i := rfl
@[simp] theorem trace_draw : s.draw.trace = s.trace := rfl
@[simp] theorem trace_begin (a : Activity) : (s.begin a).trace = s.trace := rfl
@[simp] theorem trace_nextEntry : s.nextEntry.trace = s.trace := rfl
@[simp] theorem trace_nextPixel : s.nextPixel.trace = s.trace := rfl
@[simp] theorem trace_takeRequest : s.takeRequest.trace = s.trace := rfl
@[simp] theorem trace_refuseRequest : s.refuseRequest.trace = s.trace := rfl
@[simp] theorem trace_setLevel (l : Line) (v : Level) : (s.setLevel l v).trace = s.trace := by cases l <;> rfl
@[simp] theorem answerAt_setLevel (l : Line) (v : Level) (i : Nat) : (s.setLevel l v).answerAt i = s.answerAt i := by
  cases l <;> rfl
@[simp] theorem level_setLevel (l : Line) (v : Level) : (s.setLevel l v).level l = v := by cases l <;> rfl

end Sys2Proof.Machine
end

