-- ==== Sys2Proof/Laws/Ops.lean ====
section
/-! SUPPORT. What each primitive and each control form can do, said once (R9 to R12, R100). -/

namespace Sys2Proof.Machine

/-! ## Answers -/

/-- R5, R6: the hold is 100 ms in every configuration. -/
@[simp] theorem resetHoldMs_eq (c : Config) : resetHoldMs c = 100 := c.resetHoldMs.property

@[simp] theorem answer_eq (s : State) : s.answer = s.answerAt 0 := rfl
@[simp] theorem lineResult_ok : lineResult .ok = .ok := rfl
@[simp] theorem lineResult_fail (k : Nat) (l : Bool) (c : Cause) : lineResult (.fail k l c) = .err .gpio c := rfl
@[simp] theorem lineAnswer_ok : lineAnswer .ok = .ok := rfl
@[simp] theorem lineAnswer_fail (k : Nat) (l : Bool) (c : Cause) : lineAnswer (.fail k l c) = .fail c := rfl
@[simp] theorem burstResult_ok : burstResult .ok = .ok := rfl
@[simp] theorem burstResult_fail (k : Nat) (l : Bool) (c : Cause) : burstResult (.fail k l c) = .err .spi c := rfl
@[simp] theorem burstAnswer_ok (n : Nat) : burstAnswer .ok n = .ok := rfl
@[simp] theorem burstAnswer_fail (k : Nat) (l : Bool) (c : Cause) (n : Nat) :
    burstAnswer (.fail k l c) n = .fail (min k n) c := rfl
@[simp] theorem sentCount_ok (n : Nat) : sentCount .ok n = n := rfl
@[simp] theorem sentCount_fail (k : Nat) (l : Bool) (c : Cause) (n : Nat) : sentCount (.fail k l c) n = min k n := rfl
@[simp] theorem levelAfter_ok (p v : Level) : levelAfter .ok p v = v := rfl

/-- R9: after a failed write a line is at its previous level or at the requested one. -/
theorem levelAfter_cases (a : Answer) (p v : Level) : levelAfter a p v = p ∨ levelAfter a p v = v := by
  rcases a with _ | ⟨_, _ | _, _⟩ <;> simp [levelAfter]

/-! ## The primitives -/

@[simp] theorem drive_fst (l : Line) (v : Level) (s : State) : (drive l v s).1 = lineResult (s.answerAt 0) := rfl

@[simp] theorem drive_trace (l : Line) (v : Level) (s : State) :
    (drive l v s).2.trace = s.trace ++ [.line l v (lineAnswer (s.answerAt 0))] := by
  simp [drive]

@[simp] theorem drive_answerAt (l : Line) (v : Level) (s : State) (i : Nat) :
    (drive l v s).2.answerAt i = s.answerAt (i + 1) := by
  simp [drive]

@[simp] theorem drive_level (l : Line) (v : Level) (s : State) :
    (drive l v s).2.level l = levelAfter (s.answerAt 0) (s.level l) v := by
  cases l <;> rfl

@[simp] theorem burst_fst (bs : List Byte) (s : State) : (burst bs s).1 = burstResult (s.answerAt 0) := rfl

@[simp] theorem burst_trace (bs : List Byte) (s : State) :
    (burst bs s).2.trace = s.trace ++ [.tx bs (burstAnswer (s.answerAt 0) bs.length)] := by
  simp [burst, State.trace]

@[simp] theorem burst_answerAt (bs : List Byte) (s : State) (i : Nat) :
    (burst bs s).2.answerAt i = s.answerAt (i + 1) := by
  simp only [burst, answerAt_emit, answerAt_draw]
  rfl

@[simp] theorem burst_sent (bs : List Byte) (s : State) :
    (burst bs s).2.sent = (bs.take (sentCount (s.answerAt 0) bs.length)).reverse ++ s.sent := rfl

@[simp] theorem wait_trace (n : Nat) (s : State) : (wait n s).trace = s.trace ++ [.wait n] := by simp [wait]

@[simp] theorem wait_answerAt (n : Nat) (s : State) (i : Nat) : (wait n s).answerAt i = s.answerAt i := rfl

@[simp] theorem setDuty_trace (d : Nat) (s : State) : (setDuty d s).trace = s.trace ++ [.blset d] := by
  simp [setDuty, State.trace]

@[simp] theorem setDuty_bl (d : Nat) (s : State) : (setDuty d s).bl = d := rfl

/-! ## Control notation (R12) -/

theorem attempt_ok {p k : State → Result × State} {s : State} (h : (p s).1 = .ok) :
    attempt p k s = k (p s).2 := by
  simp [attempt, h]

theorem attempt_err {p k : State → Result × State} {s : State} {kind : ErrorKind} {c : Cause}
    (h : (p s).1 = .err kind c) : attempt p k s = p s := by
  rw [attempt, h]
  exact Prod.ext h.symm rfl

/-- R12: `try p; k` either stops with the error of `p`, or goes on with `k` after `p`. -/
theorem attempt_cases (p k : State → Result × State) (s : State) :
    ((p s).1 = .ok ∧ attempt p k s = k (p s).2) ∨ ((∃ kind c, (p s).1 = .err kind c) ∧ attempt p k s = p s) := by
  cases h : (p s).1 with
  | ok => exact .inl ⟨rfl, attempt_ok h⟩
  | err kind c => exact .inr ⟨⟨kind, c, rfl⟩, attempt_err h⟩

/-- What two procedures relate, the first before the second, `try` relates. -/
theorem attempt_rel {R : State → State → Prop} (trans : ∀ {a b c}, R a b → R b c → R a c)
    {p k : State → Result × State} (hp : ∀ s, R s (p s).2) (hk : ∀ s, R s (k s).2) (s : State) :
    R s (attempt p k s).2 := by
  rcases attempt_cases p k s with ⟨_, h⟩ | ⟨_, h⟩ <;> rw [h]
  · exact trans (hp s) (hk _)
  · exact hp s

@[simp] theorem firstError_nil : firstError [] = .ok := rfl
@[simp] theorem firstError_ok (rs : List Result) : firstError (.ok :: rs) = firstError rs := rfl
@[simp] theorem firstError_err (k : ErrorKind) (c : Cause) (rs : List Result) :
    firstError (.err k c :: rs) = .err k c := rfl

/-! ## The span (R100) -/

theorem openSpan_fst (s : State) : (openSpan s).1 = lineResult (s.answerAt 0) := rfl
theorem closeSpan_fst (s : State) : (closeSpan s).1 = lineResult (s.answerAt 0) := rfl

theorem openSpan_trace (s : State) :
    (openSpan s).2.trace = s.trace ++ [.line .cs .low (lineAnswer (s.answerAt 0))] := by
  rw [openSpan, drive_trace]
  rfl

theorem closeSpan_trace (s : State) :
    (closeSpan s).2.trace = s.trace ++ [.line .cs .high (lineAnswer (s.answerAt 0))] := by
  rw [closeSpan, drive_trace]
  rfl

theorem openSpan_answerAt (s : State) (i : Nat) : (openSpan s).2.answerAt i = s.answerAt (i + 1) := by
  rw [openSpan, drive_answerAt]
  rfl

theorem closeSpan_answerAt (s : State) (i : Nat) : (closeSpan s).2.answerAt i = s.answerAt (i + 1) := by
  rw [closeSpan, drive_answerAt]
  rfl

theorem span_snd (body : State → Result × State) (s : State) :
    (span body s).2 = (closeSpan (spanInside body (openSpan s)).2).2 := rfl

theorem span_fst (body : State → Result × State) (s : State) :
    (span body s).1 = firstError [(openSpan s).1, (spanInside body (openSpan s)).1,
      (closeSpan (spanInside body (openSpan s)).2).1] := rfl

/-! ## What the wire procedures leave alone -/

/-- What `drive(CS)`, `drive(DC)` and `burst`, and everything made of them, leave unchanged. -/
structure WireOnly (s t : State) : Prop where
  cfg : t.cfg = s.cfg
  rst : t.rst = s.rst
  bl : t.bl = s.bl
  status : t.status = s.status
  busy : t.busy = s.busy
  tix : t.tix = s.tix
  opc : t.opc = s.opc
  data : t.data = s.data
  color : t.color = s.color
  duty : t.duty = s.duty
  ctl : t.ctl = s.ctl
  activity : t.activity = s.activity
  requests : t.env.requests = s.env.requests
  refusals : t.env.refusals = s.env.refusals

theorem WireOnly.refl (s : State) : WireOnly s s := by constructor <;> rfl

theorem WireOnly.trans {s t u : State} (h : WireOnly s t) (h' : WireOnly t u) : WireOnly s u where
  cfg := h'.cfg.trans h.cfg
  rst := h'.rst.trans h.rst
  bl := h'.bl.trans h.bl
  status := h'.status.trans h.status
  busy := h'.busy.trans h.busy
  tix := h'.tix.trans h.tix
  opc := h'.opc.trans h.opc
  data := h'.data.trans h.data
  color := h'.color.trans h.color
  duty := h'.duty.trans h.duty
  ctl := h'.ctl.trans h.ctl
  activity := h'.activity.trans h.activity
  requests := h'.requests.trans h.requests
  refusals := h'.refusals.trans h.refusals

theorem wireOnly_drive_cs (v : Level) (s : State) : WireOnly s (drive .cs v s).2 := by constructor <;> rfl
theorem wireOnly_drive_dc (v : Level) (s : State) : WireOnly s (drive .dc v s).2 := by constructor <;> rfl
theorem wireOnly_burst (bs : List Byte) (s : State) : WireOnly s (burst bs s).2 := by constructor <;> rfl
theorem wireOnly_openSpan (s : State) : WireOnly s (openSpan s).2 := by constructor <;> rfl
theorem wireOnly_closeSpan (s : State) : WireOnly s (closeSpan s).2 := by constructor <;> rfl

theorem wireOnly_attempt {p k : State → Result × State} (hp : ∀ s, WireOnly s (p s).2)
    (hk : ∀ s, WireOnly s (k s).2) (s : State) : WireOnly s (attempt p k s).2 :=
  attempt_rel (R := WireOnly) WireOnly.trans hp hk s

theorem wireOnly_span {body : State → Result × State} (hb : ∀ s, WireOnly s (body s).2) (s : State) :
    WireOnly s (span body s).2 := by
  refine WireOnly.trans ?_ (wireOnly_closeSpan _)
  refine WireOnly.trans (wireOnly_openSpan s) ?_
  simp only [spanInside]
  cases (openSpan s).1 with
  | ok => exact hb _
  | err k c => exact WireOnly.refl _

theorem wireOnly_tagged {body : State → Result × State} (hb : ∀ s, WireOnly s (body s).2) (dc : Level) (s : State) :
    WireOnly s (tagged dc body s).2 :=
  WireOnly.trans (t := { s with sent := [] }) (by constructor <;> rfl)
    (wireOnly_attempt (wireOnly_drive_dc dc) (wireOnly_span hb) _)

theorem wireOnly_frame (dc : Level) (bs : List Byte) (s : State) : WireOnly s (frame dc bs s).2 :=
  wireOnly_tagged (wireOnly_burst bs) dc s

theorem wireOnly_noteCommand (v : Level) (op : Byte) (p : Result × State) : WireOnly p.2 (noteCommand v op p).2 := by
  constructor <;> rfl

theorem wireOnly_noteData (v : Level) (p : Result × State) : WireOnly p.2 (noteData v p).2 := by constructor <;> rfl

theorem wireOnly_noteSeen (w : WindowSeen) (p : Result × State) : WireOnly p.2 (noteSeen w p).2 := by
  rcases p with ⟨_ | _, s⟩ <;> constructor <;> rfl

theorem wireOnly_commandFrame (op : Byte) (s : State) : WireOnly s (commandFrame op s).2 :=
  (wireOnly_frame _ _ s).trans (wireOnly_noteCommand _ _ _)

theorem wireOnly_dataFrame (bs : List Byte) (s : State) : WireOnly s (dataFrame bs s).2 :=
  (wireOnly_frame _ _ s).trans (wireOnly_noteData _ _)

theorem wireOnly_columnStep (s : State) : WireOnly s (columnStep s).2 :=
  (wireOnly_attempt (wireOnly_commandFrame _) (wireOnly_dataFrame _) s).trans (wireOnly_noteSeen _ _)

theorem wireOnly_rowStep (s : State) : WireOnly s (rowStep s).2 :=
  (wireOnly_attempt (wireOnly_commandFrame _) (wireOnly_dataFrame _) s).trans (wireOnly_noteSeen _ _)

theorem wireOnly_memoryStep (s : State) : WireOnly s (memoryStep s).2 :=
  (wireOnly_commandFrame _ s).trans (wireOnly_noteSeen _ _)

theorem wireOnly_windowBody (s : State) : WireOnly s (windowBody s).2 :=
  wireOnly_attempt wireOnly_columnStep (wireOnly_attempt wireOnly_rowStep wireOnly_memoryStep) s

theorem wireOnly_pixels (color : Color) (n : Nat) (s : State) : WireOnly s (pixels color n s).2 := by
  induction n generalizing s with
  | zero => exact WireOnly.refl s
  | succ n ih =>
    refine wireOnly_attempt (wireOnly_burst _) (fun s' => ?_) s
    exact WireOnly.trans (t := s'.nextPixel) (by constructor <;> rfl) (ih _)

theorem wireOnly_pixelSpan (color : Color) (s : State) : WireOnly s (pixelSpan color s).2 := by
  refine (wireOnly_tagged (fun s' => ?_) _ s).trans (wireOnly_noteData _ _)
  exact WireOnly.trans (t := { s' with pixcnt := 0 }) (by constructor <;> rfl) (wireOnly_pixels _ _ _)

theorem wireOnly_clearBody (color : Color) (s : State) : WireOnly s (clearBody color s).2 :=
  wireOnly_attempt wireOnly_windowBody (wireOnly_pixelSpan color) s

/-! ## The end of an operation (R198) -/

@[simp] theorem endOp_trace (op : HostOp) (p : Result × State) : (endOp op p).trace = p.2.trace ++ [.ret op p.1] := by
  simp [endOp, State.trace]

@[simp] theorem endOp_status (op : HostOp) (p : Result × State) : (endOp op p).status = p.1 := rfl
@[simp] theorem endOp_busy (op : HostOp) (p : Result × State) : (endOp op p).busy = false := rfl
@[simp] theorem endOp_activity (op : HostOp) (p : Result × State) : (endOp op p).activity = .idle := rfl
@[simp] theorem endOp_ctl (op : HostOp) (p : Result × State) : (endOp op p).ctl = ctlAfter op p.1 p.2.ctl := rfl
@[simp] theorem endOp_cfg (op : HostOp) (p : Result × State) : (endOp op p).cfg = p.2.cfg := rfl
@[simp] theorem endOp_cs (op : HostOp) (p : Result × State) : (endOp op p).cs = p.2.cs := rfl
@[simp] theorem endOp_dc (op : HostOp) (p : Result × State) : (endOp op p).dc = p.2.dc := rfl
@[simp] theorem endOp_rst (op : HostOp) (p : Result × State) : (endOp op p).rst = p.2.rst := rfl
@[simp] theorem endOp_bl (op : HostOp) (p : Result × State) : (endOp op p).bl = p.2.bl := rfl
@[simp] theorem endOp_tix (op : HostOp) (p : Result × State) : (endOp op p).tix = p.2.tix := rfl
@[simp] theorem endOp_pixcnt (op : HostOp) (p : Result × State) : (endOp op p).pixcnt = p.2.pixcnt := rfl
@[simp] theorem endOp_inflight (op : HostOp) (p : Result × State) : (endOp op p).inflight = p.2.inflight := rfl
@[simp] theorem endOp_opc (op : HostOp) (p : Result × State) : (endOp op p).opc = p.2.opc := rfl
@[simp] theorem endOp_data (op : HostOp) (p : Result × State) : (endOp op p).data = p.2.data := rfl
@[simp] theorem endOp_color (op : HostOp) (p : Result × State) : (endOp op p).color = p.2.color := rfl
@[simp] theorem endOp_duty (op : HostOp) (p : Result × State) : (endOp op p).duty = p.2.duty := rfl
@[simp] theorem endOp_stream (op : HostOp) (p : Result × State) : (endOp op p).stream = p.2.stream := rfl
@[simp] theorem endOp_frameMem (op : HostOp) (p : Result × State) : (endOp op p).frameMem = p.2.frameMem := rfl
@[simp] theorem endOp_sent (op : HostOp) (p : Result × State) : (endOp op p).sent = p.2.sent := rfl
@[simp] theorem endOp_env (op : HostOp) (p : Result × State) : (endOp op p).env = p.2.env := rfl
@[simp] theorem endOp_seen (op : HostOp) (p : Result × State) :
    (endOp op p).seen = seenAfter (ctlAfter op p.1 p.2.ctl) p.2.seen := rfl

end Sys2Proof.Machine
end

