-- ==== Sys2Proof/Laws/Frames.lean ====
section
/-! SUPPORT. The frame and the composites made of frames: their traces, results and final levels, said once. -/

namespace Sys2Proof.Machine

/-! ## The frame (R100, R103) -/

/-- R100: a frame whose four requests are answered `ok`. -/
theorem frame_ok {s : State} (h : AnswersOk s 4) (dc : Level) (bs : List Byte) :
    frame dc bs s =
      (.ok,
        { s with
          dc := dc
          cs := .high
          inflight := false
          sent := bs.reverse
          env := s.env.draw.draw.draw.draw
          log := (frameEvents dc bs).reverse ++ s.log }) := by
  have h0 := h 0 (by decide)
  have h1 := h 1 (by decide)
  have h2 := h 2 (by decide)
  have h3 := h 3 (by decide)
  obtain ⟨⟩ := s
  simp only [State.answerAt] at h0 h1 h2 h3
  simp [frame, tagged, attempt, span, spanInside, openSpan, closeSpan, drive, burst, State.setLevel, State.draw,
    State.emit, State.level, State.answerAt, Environment.answerAt_draw, h0, h1, h2, h3, frameEvents]

/-- A procedure that runs the given frames: its result and events are those of `framesRun`; when it succeeds it
has used four answers a frame and leaves CS high. -/
structure RunsFrames (fs : List (Level × List Byte)) (p : State → Result × State) (s : State) : Prop where
  result : (p s).1 = (framesRun fs s.answerAt).2
  trace : (p s).2.trace = s.trace ++ (framesRun fs s.answerAt).1
  rest : (p s).1 = .ok → ∀ i, (p s).2.answerAt i = s.answerAt (i + 4 * fs.length)
  high : fs ≠ [] → (p s).1 = .ok → (p s).2.cs = .high
  closed : s.inflight = false → (p s).2.inflight = false

/-- R103: a frame is one entry of `framesRun`. -/
theorem frame_runs (dc : Level) (bs : List Byte) (s : State) : RunsFrames [(dc, bs)] (frame dc bs) s := by
  have key : ∀ (a0 a1 a2 a3 : Answer), s.answerAt 0 = a0 → s.answerAt 1 = a1 → s.answerAt 2 = a2 →
      s.answerAt 3 = a3 → RunsFrames [(dc, bs)] (frame dc bs) s := by
    intro a0 a1 a2 a3 h0 h1 h2 h3
    obtain ⟨⟩ := s
    simp only [State.answerAt] at h0 h1 h2 h3
    rcases a0 with _ | ⟨k0, l0, c0⟩ <;> rcases a1 with _ | ⟨k1, l1, c1⟩ <;> rcases a2 with _ | ⟨k2, l2, c2⟩ <;>
      rcases a3 with _ | ⟨k3, l3, c3⟩ <;> constructor <;>
      simp [frame, tagged, attempt, span, spanInside, openSpan, closeSpan, drive, burst, State.setLevel, State.draw,
        State.emit, State.level, State.trace, State.answerAt, Environment.answerAt_draw, h0, h1, h2, h3, frameEvents,
        framesRun, frameRun, frameTable, levelAfter]
  exact key _ _ _ _ rfl rfl rfl rfl

/-- R103, "CS afterwards": where the last CS write was answered `ok`, CS is high; where it failed it is at one of
the two levels; where no CS write was issued it is unchanged. -/
theorem frame_cs (dc : Level) (bs : List Byte) (s : State) :
    (frame dc bs s).2.cs = csAfterFrame s.cs s.answerAt := by
  have key : ∀ (a0 a1 a2 : Answer), s.answerAt 0 = a0 → s.answerAt 1 = a1 → s.answerAt 2 = a2 →
      (frame dc bs s).2.cs =
        match a0, a1 with
        | .fail _ _ _, _ => s.cs
        | .ok, .ok => levelAfter (s.answerAt 3) .low .high
        | .ok, .fail k l c => levelAfter (s.answerAt 2) (levelAfter (.fail k l c) s.cs .low) .high := by
    intro a0 a1 a2 h0 h1 h2
    obtain ⟨⟩ := s
    simp only [State.answerAt] at h0 h1 h2
    rcases a0 with _ | ⟨k0, l0, c0⟩ <;> rcases a1 with _ | ⟨k1, l1, c1⟩ <;> rcases a2 with _ | ⟨k2, l2, c2⟩ <;>
      simp [frame, tagged, attempt, span, spanInside, openSpan, closeSpan, drive, burst, State.setLevel, State.draw,
        State.emit, State.level, State.answerAt, Environment.answerAt_draw, h0, h1, h2]
  exact key _ _ _ rfl rfl rfl

/-- R103: the DC register after a frame: the requested level, or either level after a failed DC write. -/
theorem frame_dc (dc : Level) (bs : List Byte) (s : State) :
    (frame dc bs s).2.dc = levelAfter (s.answerAt 0) s.dc dc := by
  have key : ∀ (a0 a1 : Answer), s.answerAt 0 = a0 → s.answerAt 1 = a1 →
      (frame dc bs s).2.dc = levelAfter a0 s.dc dc := by
    intro a0 a1 h0 h1
    obtain ⟨⟩ := s
    simp only [State.answerAt] at h0 h1
    rcases a0 with _ | ⟨k0, l0, c0⟩ <;> rcases a1 with _ | ⟨k1, l1, c1⟩ <;>
      simp [frame, tagged, attempt, span, spanInside, openSpan, closeSpan, drive, burst, State.setLevel, State.draw,
        State.emit, State.level, State.answerAt, Environment.answerAt_draw, h0, h1]
  exact key _ _ rfl rfl

/-- Frames leave PIXCNT and the ghost state alone. -/
theorem frame_ghost (dc : Level) (bs : List Byte) (s : State) :
    (frame dc bs s).2.pixcnt = s.pixcnt ∧ (frame dc bs s).2.stream = s.stream ∧ (frame dc bs s).2.seen = s.seen ∧
      (frame dc bs s).2.frameMem = s.frameMem := by
  have key : ∀ (a0 a1 : Answer), s.answerAt 0 = a0 → s.answerAt 1 = a1 →
      (frame dc bs s).2.pixcnt = s.pixcnt ∧ (frame dc bs s).2.stream = s.stream ∧ (frame dc bs s).2.seen = s.seen ∧
        (frame dc bs s).2.frameMem = s.frameMem := by
    intro a0 a1 h0 h1
    obtain ⟨⟩ := s
    simp only [State.answerAt] at h0 h1
    rcases a0 with _ | ⟨k0, l0, c0⟩ <;> rcases a1 with _ | ⟨k1, l1, c1⟩ <;>
      simp [frame, tagged, attempt, span, spanInside, openSpan, closeSpan, drive, burst, State.setLevel, State.draw,
        State.emit, State.level, State.answerAt, Environment.answerAt_draw, h0, h1]
  exact key _ _ rfl rfl

/-- R52, R10: the bytes of a frame's span are those its events show to have gone out. -/
theorem frame_sent (dc : Level) (bs : List Byte) (s : State) :
    (frame dc bs s).2.sent = (wireBytes (frameRun dc bs s.answerAt).1).reverse := by
  have key : ∀ (a0 a1 a2 a3 : Answer), s.answerAt 0 = a0 → s.answerAt 1 = a1 → s.answerAt 2 = a2 →
      s.answerAt 3 = a3 → (frame dc bs s).2.sent = (wireBytes (frameRun dc bs s.answerAt).1).reverse := by
    intro a0 a1 a2 a3 h0 h1 h2 h3
    obtain ⟨⟩ := s
    simp only [State.answerAt] at h0 h1 h2 h3
    rcases a0 with _ | ⟨k0, l0, c0⟩ <;> rcases a1 with _ | ⟨k1, l1, c1⟩ <;> rcases a2 with _ | ⟨k2, l2, c2⟩ <;>
      rcases a3 with _ | ⟨k3, l3, c3⟩ <;>
      simp [frame, tagged, attempt, span, spanInside, openSpan, closeSpan, drive, burst, State.setLevel, State.draw,
        State.emit, State.level, State.answerAt, Environment.answerAt_draw, h0, h1, h2, h3, frameEvents, frameRun,
        frameTable, wireBytes]
  exact key _ _ _ _ rfl rfl rfl rfl

/-! ## Frames one after the other (R88) -/

theorem framesRun_append (fs gs : List (Level × List Byte)) (ans : Nat → Answer) :
    framesRun (fs ++ gs) ans =
      match (framesRun fs ans).2 with
      | .ok =>
        ((framesRun fs ans).1 ++ (framesRun gs fun i => ans (i + 4 * fs.length)).1,
          (framesRun gs fun i => ans (i + 4 * fs.length)).2)
      | .err k c => ((framesRun fs ans).1, .err k c) := by
  induction fs generalizing ans with
  | nil => simp [framesRun]
  | cons f fs ih =>
    obtain ⟨dc, bs⟩ := f
    cases h : (frameRun dc bs ans).2 with
    | err k c => simp [framesRun, h]
    | ok =>
      simp only [List.cons_append, framesRun, h, ih]
      cases h' : (framesRun fs fun i => ans (i + 4)).2 with
      | err k c => rfl
      | ok => simp [List.append_assoc, Nat.mul_add, Nat.add_comm, Nat.add_left_comm]

/-- `try p; k` runs the frames of `p` and then those of `k`. -/
theorem RunsFrames.attempt {fs gs : List (Level × List Byte)} {p k : State → Result × State} {s : State}
    (hp : RunsFrames fs p s) (hk : RunsFrames gs k (p s).2) (hg : gs ≠ []) :
    RunsFrames (fs ++ gs) (attempt p k) s := by
  have happ := framesRun_append fs gs s.answerAt
  rw [← hp.result] at happ
  rcases attempt_cases p k s with ⟨h, ha⟩ | ⟨⟨kind, c, h⟩, ha⟩
  · have hrest : (p s).2.answerAt = fun i => s.answerAt (i + 4 * fs.length) := funext (hp.rest h)
    rw [h] at happ
    constructor
    · rw [ha, happ, hk.result, hrest]
    · rw [ha, happ, hk.trace, hp.trace, hrest, List.append_assoc]
    · intro hok i
      rw [ha] at hok ⊢
      rw [hk.rest hok, hp.rest h, List.length_append, Nat.mul_add, Nat.add_assoc, Nat.add_comm (4 * gs.length)]
    · intro _ hok
      rw [ha] at hok ⊢
      exact hk.high hg hok
    · intro hc
      rw [ha]
      exact hk.closed (hp.closed hc)
  · rw [h] at happ
    constructor
    · rw [ha, happ, h]
    · rw [ha, happ, hp.trace]
    · intro hok
      rw [ha, h] at hok
      cases hok
    · intro _ hok
      rw [ha, h] at hok
      cases hok
    · intro hc
      rw [ha]
      exact hp.closed hc

/-- A procedure with the same result, trace, answers, CS and INFLIGHT runs the same frames. -/
theorem RunsFrames.congr {fs : List (Level × List Byte)} {p q : State → Result × State} {s : State}
    (hp : RunsFrames fs p s) (h1 : (q s).1 = (p s).1) (hlog : (q s).2.log = (p s).2.log)
    (henv : (q s).2.env = (p s).2.env) (hcs : (q s).2.cs = (p s).2.cs)
    (hin : (q s).2.inflight = (p s).2.inflight) : RunsFrames fs q s where
  result := h1.trans hp.result
  trace := (trace_eq_of_log hlog).trans hp.trace
  rest h i := (answerAt_eq_of_env henv i).trans (hp.rest (h1 ▸ h) i)
  high hne h := hcs.trans (hp.high hne (h1 ▸ h))
  closed h := hin.trans (hp.closed h)

theorem commandFrame_runs (op : Byte) (s : State) : RunsFrames [(.low, [op])] (commandFrame op) s :=
  (frame_runs .low [op] s).congr rfl rfl rfl rfl rfl

theorem dataFrame_runs (bs : List Byte) (s : State) : RunsFrames [(.high, bs)] (dataFrame bs) s :=
  (frame_runs .high bs s).congr rfl rfl rfl rfl rfl

theorem RunsFrames.noteSeen {fs : List (Level × List Byte)} {p : State → Result × State} {s : State}
    (hp : RunsFrames fs p s) (w : WindowSeen) : RunsFrames fs (fun s' => noteSeen w (p s')) s := by
  refine hp.congr ?_ ?_ ?_ ?_ ?_ <;> (simp only [Machine.noteSeen]; cases (p s).1 <;> simp)

/-- R151: the column step is two frames. -/
theorem columnStep_runs (s : State) :
    RunsFrames [(.low, [s.cfg.opCaset]), (.high, columnParams s.cfg)] columnStep s :=
  (((commandFrame_runs _ s).attempt (dataFrame_runs _ _) (by simp)).noteSeen _).congr rfl rfl rfl rfl rfl

/-- R152: the row step is two frames. -/
theorem rowStep_runs (s : State) : RunsFrames [(.low, [s.cfg.opPaset]), (.high, rowParams s.cfg)] rowStep s :=
  (((commandFrame_runs _ s).attempt (dataFrame_runs _ _) (by simp)).noteSeen _).congr rfl rfl rfl rfl rfl

/-- R153: the memory-write step is one frame. -/
theorem memoryStep_runs (s : State) : RunsFrames [(.low, [s.cfg.opRamwr])] memoryStep s :=
  ((commandFrame_runs _ s).noteSeen _).congr rfl rfl rfl rfl rfl

/-- R150, R88: the window body is the five frames of SET_FULL_WINDOW. -/
theorem windowBody_runs (s : State) : RunsFrames (windowFrames s.cfg) windowBody s := by
  have h2 := rowStep_runs (columnStep s).2
  have h3 := memoryStep_runs (rowStep (columnStep s).2).2
  rw [(wireOnly_columnStep s).cfg] at h2
  rw [(wireOnly_rowStep _).cfg, (wireOnly_columnStep s).cfg] at h3
  exact (columnStep_runs s).attempt (h2.attempt h3 (by simp)) (by simp)

/-- R131: an entry's two frames. -/
theorem tCommandBody_runs (op : Byte) (ps : List Byte) (s : State) :
    RunsFrames [(.low, [op]), (.high, ps)] (tCommandBody op ps) s :=
  have h := (commandFrame_runs op { s with opc := op, data := ps }).attempt (dataFrame_runs ps _) (by simp)
  ⟨h.result, h.trace, h.rest, h.high, h.closed⟩

/-! ## Frames that succeed -/

theorem frameRun_ok {ans : Nat → Answer} (h : ∀ i, i < 4 → ans i = .ok) (dc : Level) (bs : List Byte) :
    frameRun dc bs ans = (frameEvents dc bs, .ok) := by
  simp [frameRun, frameTable, h 0 (by decide), h 1 (by decide), h 2 (by decide), h 3 (by decide)]

/-- Frames answered `ok` throughout leave the concatenation of their events. -/
theorem framesRun_ok (fs : List (Level × List Byte)) {ans : Nat → Answer}
    (h : ∀ i, i < 4 * fs.length → ans i = .ok) :
    framesRun fs ans = (fs.flatMap fun f => frameEvents f.1 f.2, .ok) := by
  induction fs generalizing ans with
  | nil => rfl
  | cons f fs ih =>
    obtain ⟨dc, bs⟩ := f
    have h0 := frameRun_ok (dc := dc) (bs := bs) fun i hi => h i (by simp only [List.length_cons]; omega)
    have h1 := ih (ans := fun i => ans (i + 4)) fun i hi => h (i + 4) (by simp only [List.length_cons]; omega)
    simp [framesRun, h0, h1]

end Sys2Proof.Machine
end

