-- ==== Sys2Proof/Laws/PerInstr.lean ====
section
/-! SUPPORT. Statements about every instruction as syntax, one lemma per constructor. -/

namespace Sys2Proof.Laws.EncodedLength

/-- R73, R76, R80 to R82, R89: the length the opcode table gives a row, for the row's operands. -/
def expected (c : Config) : Instr → Nat
  | .sendCommand _ => 2
  | .sendData bytes => 5 + bytes.length
  | .reset => 1
  | .initializePanel => 1
  | .setFullWindow => 1
  | .clear _ => 3
  | .setBacklight _ => 1 + (c.dutyW.val + 7) / 8
  | .tCommand _ parameters => 3 + parameters.length
  | .tDelay _ => 5
  | .caset => 1
  | .paset => 1
  | .ramwr => 1

/-- The encoder gives an instruction as many bytes as the opcode table's `length_bytes` says. -/
def Statement (i : Instr) : Prop := ∀ c : Config, (encode c i).length = expected c i

theorem sendCommand (opcode : Byte) : Statement (.sendCommand opcode) := fun _ => rfl

theorem sendData (bytes : List Byte) : Statement (.sendData bytes) := fun _ => by
  simp [encode, expected]
  omega

theorem reset : Statement .reset := fun _ => rfl

theorem initializePanel : Statement .initializePanel := fun _ => rfl

theorem setFullWindow : Statement .setFullWindow := fun _ => rfl

theorem clear (color : Color) : Statement (.clear color) := fun _ => rfl

theorem setBacklight (duty : Nat) : Statement (.setBacklight duty) := fun _ => by
  simp [encode, expected, dutyBytes]
  omega

theorem tCommand (opcode : Byte) (parameters : List Byte) : Statement (.tCommand opcode parameters) := fun _ => by
  simp [encode, expected]
  omega

theorem tDelay (durationMs : Nat) : Statement (.tDelay durationMs) := fun _ => rfl

theorem caset : Statement .caset := fun _ => rfl

theorem paset : Statement .paset := fun _ => rfl

theorem ramwr : Statement .ramwr := fun _ => rfl

end Sys2Proof.Laws.EncodedLength
end

