-- ==== Sys2Proof/Laws/Traces.lean ====
section
/-! SUPPORT. What every procedure does to the trace, said once: which events it can append, what its result has to do
with them, and that both depend on the constants and the answers to come alone. -/

namespace Sys2Proof.Machine

/-! ## Lists of events -/

theorem wireRun_append (p : WirePhase) (es fs : List Event) :
    wireRun p (es ++ fs) = (wireRun p es).bind fun q => wireRun q fs := by
  induction es generalizing p with
  | nil => rfl
  | cons e es ih =>
    simp only [List.cons_append, wireRun]
    cases wireNext p e <;> simp [ih]

theorem firstFailure_append (es fs : List Event) :
    firstFailure (es ++ fs) = firstError [firstFailure es, firstFailure fs] := by
  induction es with
  | nil => cases h : firstFailure fs <;> simp [firstFailure, h]
  | cons e es ih => rcases e with ⟨l, v, _ | c⟩ | ⟨bs, _ | ⟨k, c⟩⟩ | _ | _ | _ <;> simp [firstFailure, ih]

theorem csTrusted_append (b : Bool) (es fs : List Event) :
    csTrusted b (es ++ fs) = csTrusted (csTrusted b es) fs := by
  induction es generalizing b with
  | nil => rfl
  | cons e es ih => simp only [List.cons_append, csTrusted, ih]

/-- No event of the list is the return of an operation. -/
def returnFree (es : List Event) : Bool :=
  es.all fun e => match e with
    | .ret _ _ => false
    | _ => true

theorem returnFree_append (es fs : List Event) : returnFree (es ++ fs) = (returnFree es && returnFree fs) :=
  List.all_append

theorem not_mem_of_returnFree {es : List Event} (h : returnFree es = true) (op : HostOp) (r : Result) :
    .ret op r ∉ es := fun hm => by
  have := List.all_eq_true.1 h _ hm
  cases this

/-! ## Renaming causes (R194) -/

@[simp] theorem renameAnswer_id (a : Answer) : renameAnswer id a = a := by cases a <;> rfl

@[simp] theorem renameResult_id (r : Result) : renameResult id r = r := by cases r <;> rfl

@[simp] theorem renameEvent_id (e : Event) : renameEvent id e = e := by
  rcases e with ⟨l, v, _ | c⟩ | ⟨bs, _ | ⟨k, c⟩⟩ | _ | _ | _ <;> simp [renameEvent]

theorem map_renameEvent_id (es : List Event) : es.map (renameEvent id) = es := by
  induction es with
  | nil => rfl
  | cons e es ih => rw [List.map_cons, renameEvent_id, ih]

@[simp] theorem lineResult_rename (f : Cause → Cause) (a : Answer) :
    lineResult (renameAnswer f a) = renameResult f (lineResult a) := by cases a <;> rfl

@[simp] theorem burstResult_rename (f : Cause → Cause) (a : Answer) :
    burstResult (renameAnswer f a) = renameResult f (burstResult a) := by cases a <;> rfl

theorem renameEvent_line (f : Cause → Cause) (l : Line) (v : Level) (a : Answer) :
    renameEvent f (.line l v (lineAnswer a)) = .line l v (lineAnswer (renameAnswer f a)) := by cases a <;> rfl

theorem renameEvent_tx (f : Cause → Cause) (bs : List Byte) (a : Answer) :
    renameEvent f (.tx bs (burstAnswer a bs.length)) = .tx bs (burstAnswer (renameAnswer f a) bs.length) := by
  cases a <;> rfl

theorem renameResult_firstError (f : Cause → Cause) (rs : List Result) :
    renameResult f (firstError rs) = firstError (rs.map (renameResult f)) := by
  induction rs with
  | nil => rfl
  | cons r rs ih => cases r <;> [exact ih; rfl]

/-! ## Procedures that append events -/

/-- The next `k` answers to come of `s'` are those of `s`, their causes renamed by `ρ`. -/
def SameAnswers (ρ : Cause → Cause) (k : Nat) (s s' : State) : Prop :=
  ∀ i, i < k → s'.answerAt i = renameAnswer ρ (s.answerAt i)

theorem SameAnswers.mono {ρ : Cause → Cause} {k l : Nat} {s s' : State} (h : SameAnswers ρ l s s') (hk : k ≤ l) :
    SameAnswers ρ k s s' := fun i hi => h i (Nat.lt_of_lt_of_le hi hk)

theorem SameAnswers.of_eq {k : Nat} {s s' : State} (h : ∀ i, s.answerAt i = s'.answerAt i) : SameAnswers id k s s' :=
  fun i _ => by rw [renameAnswer_id, h]

/-- What is left of the same answers when each state has drawn one. -/
theorem SameAnswers.tail {ρ : Cause → Cause} {k : Nat} {s s' t t' : State} (h : SameAnswers ρ (k + 1) s s')
    (ht : ∀ i, t.answerAt i = s.answerAt (i + 1)) (ht' : ∀ i, t'.answerAt i = s'.answerAt (i + 1)) :
    SameAnswers ρ k t t' := fun i hi => by rw [ht, ht', h (i + 1) (Nat.succ_lt_succ hi)]

/-- From `s` and `s'`, `f` appends the same events and returns the same result but for the names of the causes, and
leaves the constants alone and again the same `k` answers to come; the events take the wires from `p` to `q`; the result
is the first failure among them; there are at most `n` of them, and none is a return. -/
def Appends (ρ : Cause → Cause) (p q : WirePhase) (n k : Nat) (f : State → Result × State) (s s' : State) : Prop :=
  ∃ es, (f s).2.trace = s.trace ++ es ∧ (f s').2.trace = s'.trace ++ es.map (renameEvent ρ) ∧
    (f s').1 = renameResult ρ (f s).1 ∧ SameAnswers ρ k (f s).2 (f s').2 ∧ (f s).2.cfg = s.cfg ∧
    (f s').2.cfg = s'.cfg ∧ wireRun p es = some q ∧ firstFailure es = (f s).1 ∧ es.length ≤ n ∧
    returnFree es = true

/-- `Appends` from every two states with the same constants and, but for the names of the causes, the same answers to
come to the at most `n` requests that `f` issues, `n` depending on the constants, and to `k` further ones. -/
def AppendsAlways (p q : WirePhase) (n : Config → Nat) (f : State → Result × State) : Prop :=
  ∀ (ρ : Cause → Cause) (k : Nat) (s s' : State), s.cfg = s'.cfg → SameAnswers ρ (n s.cfg + k) s s' →
    Appends ρ p q (n s.cfg) k f s s'

/-- What `AppendsAlways` says of one state. -/
theorem AppendsAlways.alone {p q : WirePhase} {n : Config → Nat} {f : State → Result × State}
    (hf : AppendsAlways p q n f) (s : State) :
    ∃ es, (f s).2.trace = s.trace ++ es ∧ (f s).2.cfg = s.cfg ∧ wireRun p es = some q ∧ firstFailure es = (f s).1 ∧
      es.length ≤ n s.cfg ∧ returnFree es = true := by
  obtain ⟨es, e1, -, -, -, e5, -, e7, e8, e9, eq⟩ := hf id 0 s s rfl (.of_eq fun _ => rfl)
  exact ⟨es, e1, e5, e7, e8, e9, eq⟩

theorem AppendsAlways.attempt {p q r : WirePhase} {m n : Config → Nat} {f g : State → Result × State}
    (hf : AppendsAlways p q m f) (hg : AppendsAlways q r n g) (hqr : q = r) :
    AppendsAlways p r (fun c => m c + n c) (attempt f g) := by
  subst hqr
  intro ρ k s s' hc ha
  obtain ⟨es, h1, h2, h3, h4, h5, h6, h7, h8, h9, hq⟩ :=
    hf ρ (n s.cfg + k) s s' hc (by rw [← Nat.add_assoc]; exact ha)
  cases hr : (f s).1 with
  | err kind c =>
    have hr' : (f s').1 = .err kind (ρ c) := by rw [h3, hr]; rfl
    rw [Appends, attempt_err hr, attempt_err hr']
    exact ⟨es, h1, h2, h3, h4.mono (Nat.le_add_left _ _), h5, h6, h7, h8, Nat.le_add_right_of_le h9, hq⟩
  | ok =>
    have hr' : (f s').1 = .ok := by rw [h3, hr]; rfl
    obtain ⟨fs, g1, g2, g3, g4, g5, g6, g7, g8, g9, gq⟩ := hg ρ k (f s).2 (f s').2 (by rw [h5, h6, hc]) (by rw [h5]; exact h4)
    rw [h5] at g9
    rw [Appends, attempt_ok hr, attempt_ok hr']
    refine ⟨es ++ fs, ?_, ?_, g3, g4, g5.trans h5, g6.trans h6, ?_, ?_, ?_, ?_⟩
    · rw [g1, h1, List.append_assoc]
    · rw [g2, h2, List.map_append, List.append_assoc]
    · rw [wireRun_append, h7, Option.bind_some, g7]
    · rw [firstFailure_append, h8, g8, hr]
      cases (g (f s).2).1 <;> rfl
    · rw [List.length_append]
      exact Nat.add_le_add h9 g9
    · rw [returnFree_append, hq, gq]
      rfl

/-- A procedure with the same result, trace, answers and constants appends the same events. -/
theorem AppendsAlways.congr {p q : WirePhase} {n : Config → Nat} {f g : State → Result × State}
    (hf : AppendsAlways p q n f) (h1 : ∀ s, (g s).1 = (f s).1) (hlog : ∀ s, (g s).2.log = (f s).2.log)
    (henv : ∀ s, (g s).2.env = (f s).2.env) (hcfg : ∀ s, (g s).2.cfg = (f s).2.cfg) : AppendsAlways p q n g := by
  intro ρ k s s' hc ha
  obtain ⟨es, e1, e2, e3, e4, e5, e6, e7, e8, e9, eq⟩ := hf ρ k s s' hc ha
  refine ⟨es, (trace_eq_of_log (hlog s)).trans e1, (trace_eq_of_log (hlog s')).trans e2, ?_, fun i hi => ?_,
    (hcfg s).trans e5, (hcfg s').trans e6, e7, (h1 s) ▸ e8, e9, eq⟩
  · rw [h1, h1, e3]
  · rw [answerAt_eq_of_env (henv s), answerAt_eq_of_env (henv s'), e4 i hi]

theorem AppendsAlways.mono {p q : WirePhase} {m n : Config → Nat} {f : State → Result × State}
    (hf : AppendsAlways p q m f) (h : ∀ c, m c ≤ n c) : AppendsAlways p q n f := by
  intro ρ k s s' hc ha
  obtain ⟨es, e1, e2, e3, e4, e5, e6, e7, e8, e9, eq⟩ :=
    hf ρ k s s' hc (ha.mono (Nat.add_le_add_right (h _) k))
  exact ⟨es, e1, e2, e3, e4, e5, e6, e7, e8, Nat.le_trans e9 (h _), eq⟩

/-- Starting from a changed state with the same trace, answers and constants. -/
theorem AppendsAlways.comp {p q : WirePhase} {n : Config → Nat} {f : State → Result × State} {u : State → State}
    (hf : AppendsAlways p q n f) (hlog : ∀ s, (u s).log = s.log) (henv : ∀ s, (u s).env = s.env)
    (hcfg : ∀ s, (u s).cfg = s.cfg) : AppendsAlways p q n (fun s => f (u s)) := by
  intro ρ k s s' hc ha
  obtain ⟨es, e1, e2, e3, e4, e5, e6, e7, e8, e9, eq⟩ := hf ρ k (u s) (u s') (by rw [hcfg, hcfg, hc])
    (fun i hi => by
      rw [hcfg] at hi
      rw [answerAt_eq_of_env (henv s), answerAt_eq_of_env (henv s'), ha i hi])
  rw [trace_eq_of_log (hlog s)] at e1
  rw [trace_eq_of_log (hlog s')] at e2
  rw [hcfg] at e5 e9
  rw [hcfg] at e6
  exact ⟨es, e1, e2, e3, e4, e5, e6, e7, e8, e9, eq⟩

/-- A procedure that does nothing. -/
theorem appends_nothing (p : WirePhase) : AppendsAlways p p (fun _ => 0) fun s => (.ok, s) :=
  fun _ _ _ _ _ ha =>
    ⟨[], (List.append_nil _).symm, (List.append_nil _).symm, rfl, ha.mono (Nat.le_add_left _ _), rfl, rfl, rfl, rfl, Nat.le_refl _, rfl⟩

/-- A line write appends its one event. -/
theorem appends_drive {p q : WirePhase} (l : Line) (v : Level)
    (hw : ∀ a, wireNext p (.line l v a) = some q) : AppendsAlways p q (fun _ => 1) (drive l v) := by
  intro ρ k s s' _ ha
  replace ha : SameAnswers ρ (k + 1) s s' := ha.mono (Nat.le_of_eq (Nat.add_comm _ _))
  refine ⟨[.line l v (lineAnswer (s.answerAt 0))], drive_trace l v s, ?_, ?_,
    ha.tail (drive_answerAt l v s) (drive_answerAt l v s'), ?_, ?_, ?_, ?_, Nat.le_refl _, rfl⟩
  · rw [drive_trace, ha 0 (Nat.succ_pos _)]
    exact congrArg (s'.trace ++ [·]) (renameEvent_line ρ l v _).symm
  · rw [drive_fst, drive_fst, ha 0 (Nat.succ_pos _), lineResult_rename]
  · cases l <;> rfl
  · cases l <;> rfl
  · simp only [wireRun, hw]
  · rw [drive_fst]
    cases s.answerAt 0 <;> rfl

/-- A burst appends its one event. -/
theorem appends_burst {p q : WirePhase} (bs : List Byte)
    (hw : ∀ a, wireNext p (.tx bs a) = some q) : AppendsAlways p q (fun _ => 1) (burst bs) := by
  intro ρ k s s' _ ha
  replace ha : SameAnswers ρ (k + 1) s s' := ha.mono (Nat.le_of_eq (Nat.add_comm _ _))
  refine ⟨[.tx bs (burstAnswer (s.answerAt 0) bs.length)], burst_trace bs s, ?_, ?_,
    ha.tail (burst_answerAt bs s) (burst_answerAt bs s'), rfl, rfl, ?_, ?_, Nat.le_refl _, rfl⟩
  · rw [burst_trace, ha 0 (Nat.succ_pos _)]
    exact congrArg (s'.trace ++ [·]) (renameEvent_tx ρ bs _).symm
  · rw [burst_fst, burst_fst, ha 0 (Nat.succ_pos _), burstResult_rename]
  · simp only [wireRun, hw]
  · rw [burst_fst]
    cases s.answerAt 0 <;> rfl

/-- A wait, of a duration taken from the constants, appends its one event. -/
theorem appends_wait (n : Config → Nat) :
    AppendsAlways (.between none) (.between none) (fun _ => 1) fun s => (.ok, wait (n s.cfg) s) := by
  intro ρ k s s' hc ha
  refine ⟨[.wait (n s.cfg)], wait_trace _ _, ?_, rfl, ha.mono (Nat.le_add_left _ _), rfl, rfl, rfl, rfl, Nat.le_refl _, rfl⟩
  rw [hc]
  exact wait_trace _ _

/-! ## The span -/

/-- The body of a span tagged `dc`: it keeps the wires inside the span. -/
def SpanBody (dc : Level) (n : Config → Nat) (f : State → Result × State) : Prop :=
  ∀ (ρ : Cause → Cause) (k : Nat) (s s' : State), s.cfg = s'.cfg → SameAnswers ρ (n s.cfg + k) s s' →
    ∃ b, Appends ρ (.inside dc false) (.inside dc b) (n s.cfg) k f s s'

theorem spanBody_opcode (op : Byte) : SpanBody .low (fun _ => 1) (burst [op]) :=
  fun ρ k s s' hc ha => ⟨true, appends_burst [op] (fun _ => rfl) ρ k s s' hc ha⟩

/-- Inside a data span a burst keeps the wires inside it. -/
theorem appends_burst_high (bs : List Byte) (b : Bool) :
    AppendsAlways (.inside .high b) (.inside .high true) (fun _ => 1) (burst bs) :=
  appends_burst bs fun _ => by cases b <;> rfl

theorem spanBody_burst (bs : List Byte) : SpanBody .high (fun _ => 1) (burst bs) :=
  fun ρ k s s' hc ha => ⟨true, appends_burst_high bs false ρ k s s' hc ha⟩

/-- What runs inside a span: the body's events if the span was opened without error, else none. -/
theorem appends_spanInside {dc : Level} {n : Config → Nat} {body : State → Result × State} (hb : SpanBody dc n body)
    (ρ : Cause → Cause) (k : Nat) {s s' : State} (hc : s.cfg = s'.cfg) (ha : SameAnswers ρ (n s.cfg + k) s s')
    (r : Result) :
    ∃ b fs, (spanInside body (r, s)).2.trace = s.trace ++ fs ∧
      (spanInside body (renameResult ρ r, s')).2.trace = s'.trace ++ fs.map (renameEvent ρ) ∧
      (spanInside body (renameResult ρ r, s')).1 = renameResult ρ (spanInside body (r, s)).1 ∧
      SameAnswers ρ k (spanInside body (r, s)).2 (spanInside body (renameResult ρ r, s')).2 ∧
      (spanInside body (r, s)).2.cfg = s.cfg ∧ (spanInside body (renameResult ρ r, s')).2.cfg = s'.cfg ∧
      wireRun (.inside dc false) fs = some (.inside dc b) ∧ firstFailure fs = (spanInside body (r, s)).1 ∧
      fs.length ≤ n s.cfg ∧ returnFree fs = true := by
  cases r with
  | ok => exact hb ρ k s s' hc ha
  | err kind c =>
    exact ⟨false, [], (List.append_nil _).symm, (List.append_nil _).symm, rfl, ha.mono (Nat.le_add_left _ _), rfl,
      rfl, rfl, rfl, Nat.zero_le _, rfl⟩

/-- R100: a span appends the CS-low write, the body's events if that succeeded, and the release. -/
theorem appends_span {dc : Level} {n : Config → Nat} {body : State → Result × State} (hb : SpanBody dc n body) :
    AppendsAlways (.between (some dc)) (.between none) (fun c => 2 + n c) (span body) := by
  intro ρ k s s' hc ha
  replace ha : SameAnswers ρ (n s.cfg + (k + 1) + 1) s s' := ha.mono (by show _ ≤ 2 + n s.cfg + k; omega)
  have h0 := ha 0 (Nat.succ_pos _)
  have oa := ha.tail (openSpan_answerAt s) (openSpan_answerAt s')
  have of : (openSpan s').1 = renameResult ρ (openSpan s).1 := by
    rw [openSpan_fst, openSpan_fst, h0, lineResult_rename]
  obtain ⟨b, fs, f1, f2, f3, f4, f5, f6, f7, f8, f9, fq⟩ :=
    appends_spanInside hb ρ (k + 1) (s := (openSpan s).2) (s' := (openSpan s').2) hc oa (openSpan s).1
  rw [← of] at f2 f3 f4 f6
  have h1 : (spanInside body (openSpan s')).2.answerAt 0 =
      renameAnswer ρ ((spanInside body (openSpan s)).2.answerAt 0) := f4 0 (Nat.succ_pos _)
  refine ⟨.line .cs .low (lineAnswer (s.answerAt 0)) ::
    (fs ++ [.line .cs .high (lineAnswer ((spanInside body (openSpan s)).2.answerAt 0))]), ?_, ?_, ?_,
    f4.tail (closeSpan_answerAt _) (closeSpan_answerAt _), f5, f6, ?_, ?_, ?_, ?_⟩
  · rw [span_snd, closeSpan_trace, f1, openSpan_trace]
    simp
  · rw [span_snd, closeSpan_trace, f2, openSpan_trace, h0, h1]
    simp [renameEvent_line]
  · rw [span_fst, span_fst, closeSpan_fst, closeSpan_fst, f3, of, h1, lineResult_rename,
      renameResult_firstError]
    rfl
  · simp only [wireRun, wireNext, wireRun_append, f7, Option.bind_some]
  · rw [span_fst, ← f8, openSpan_fst, closeSpan_fst]
    cases s.answerAt 0 <;> cases h : firstFailure fs <;>
      cases (spanInside body (openSpan s)).2.answerAt 0 <;> simp [firstFailure, firstFailure_append, h]
  · have : fs.length ≤ n s.cfg := f9
    simp only [List.length_cons, List.length_append, List.length_nil]
    omega
  · rw [← List.cons_append, returnFree_append]
    exact Bool.and_eq_true_iff.2 ⟨fq, rfl⟩

/-- R100: a tagged span appends the DC write and, if that succeeded, the span's events. -/
theorem appends_tagged {dc : Level} {n : Config → Nat} {body : State → Result × State} (hb : SpanBody dc n body) :
    AppendsAlways (.between none) (.between none) (fun c => 3 + n c) (tagged dc body) := by
  have go : AppendsAlways (.between none) (.between none) (fun c => 3 + n c) (attempt (drive .dc dc) (span body)) := by
    intro ρ k s s' hc ha
    replace ha : SameAnswers ρ (2 + n s.cfg + k + 1) s s' := ha.mono (by show _ ≤ 3 + n s.cfg + k; omega)
    have da := ha.tail (drive_answerAt .dc dc s) (drive_answerAt .dc dc s')
    have t1 := drive_trace .dc dc s
    have t2 := drive_trace .dc dc s'
    have r1 := drive_fst .dc dc s
    have r2 := drive_fst .dc dc s'
    rw [ha 0 (Nat.succ_pos _)] at t2 r2
    cases e0 : s.answerAt 0 with
    | fail m l c =>
      rw [e0] at t1 t2 r1 r2
      rw [Appends, attempt_err r1, attempt_err r2]
      refine ⟨[.line .dc dc (.fail c)], t1, t2, ?_, da.mono (Nat.le_add_left _ _), rfl, rfl, rfl, r1.symm, Nat.le_add_right_of_le (Nat.le_add_left 1 2), rfl⟩
      rw [r1, r2]
      rfl
    | ok =>
      rw [e0] at t1 t2 r1 r2
      rw [Appends, attempt_ok r1, attempt_ok r2]
      obtain ⟨es, e1, e2, e3, e4, e5, e6, e7, e8, e9, eq⟩ :=
        appends_span hb ρ k (drive .dc dc s).2 (drive .dc dc s').2 hc da
      refine ⟨.line .dc dc .ok :: es, ?_, ?_, e3, e4, e5, e6, ?_, ?_, ?_, eq⟩
      · rw [e1, t1, List.append_assoc]
        rfl
      · rw [e2, t2, List.append_assoc]
        rfl
      · simp only [wireRun, wireNext, e7]
      · simp only [firstFailure, e8]
      · have : es.length ≤ 2 + n s.cfg := e9
        simp only [List.length_cons]
        omega
  exact go.comp (u := fun s => { s with sent := [] }) (fun _ => rfl) (fun _ => rfl) fun _ => rfl

/-! ## The procedures of the operations -/

theorem appends_commandFrame (op : Byte) : AppendsAlways (.between none) (.between none) (fun _ => 4) (commandFrame op) :=
  (appends_tagged (spanBody_opcode op)).congr (fun _ => rfl) (fun _ => rfl) (fun _ => rfl) fun _ => rfl

theorem appends_dataFrame (bs : List Byte) :
    AppendsAlways (.between none) (.between none) (fun _ => 4) (dataFrame bs) :=
  (appends_tagged (spanBody_burst bs)).congr (fun _ => rfl) (fun _ => rfl) (fun _ => rfl) fun _ => rfl

theorem appends_noteSeen {p q : WirePhase} {n : Config → Nat} {f : State → Result × State}
    (hf : AppendsAlways p q n f) (w : State → WindowSeen) :
    AppendsAlways p q n fun s => noteSeen (w s) (f s) := by
  refine hf.congr ?_ ?_ ?_ ?_ <;> (intro s; simp only [noteSeen]; cases (f s).1 <;> rfl)

/-- Operands read from the constants: a procedure that takes them from its state. -/
theorem Appends.ofCfg {ρ : Cause → Cause} {p q : WirePhase} {n k : Nat} {f : Config → State → Result × State}
    {s s' : State} (hc : s.cfg = s'.cfg) (h : Appends ρ p q n k (f s.cfg) s s') :
    Appends ρ p q n k (fun u => f u.cfg u) s s' := by
  simp only [Appends, ← hc] at h ⊢
  exact h

theorem AppendsAlways.ofCfg {p q : WirePhase} {n : Config → Nat} {f : Config → State → Result × State}
    (hf : ∀ c, AppendsAlways p q n (f c)) : AppendsAlways p q n fun s => f s.cfg s :=
  fun ρ k s s' hc ha => Appends.ofCfg hc (hf s.cfg ρ k s s' hc ha)

theorem appends_columnStep : AppendsAlways (.between none) (.between none) (fun _ => 8) columnStep :=
  appends_noteSeen
    (AppendsAlways.ofCfg fun c => (appends_commandFrame c.opCaset).attempt (appends_dataFrame (columnParams c)) rfl) _

theorem appends_rowStep : AppendsAlways (.between none) (.between none) (fun _ => 8) rowStep :=
  appends_noteSeen
    (AppendsAlways.ofCfg fun c => (appends_commandFrame c.opPaset).attempt (appends_dataFrame (rowParams c)) rfl) _

theorem appends_memoryStep : AppendsAlways (.between none) (.between none) (fun _ => 4) memoryStep :=
  appends_noteSeen (AppendsAlways.ofCfg fun c => appends_commandFrame c.opRamwr) _

theorem appends_windowBody : AppendsAlways (.between none) (.between none) (fun _ => 20) windowBody :=
  (appends_columnStep.attempt (appends_rowStep.attempt appends_memoryStep rfl) rfl).mono fun _ => Nat.le_refl _

theorem appends_pixels (color : Color) (n : Nat) (b : Bool) :
    ∃ b', AppendsAlways (.inside .high b) (.inside .high b') (fun _ => n) (pixels color n) := by
  have all : ∀ n, AppendsAlways (.inside .high true) (.inside .high true) (fun _ => n) (pixels color n) := by
    intro n
    induction n with
    | zero => exact appends_nothing _
    | succ n ih =>
      refine ((appends_burst_high (pix color) true).attempt
        (ih.comp (u := State.nextPixel) (fun _ => rfl) (fun _ => rfl) fun _ => rfl) rfl).mono fun _ => ?_
      omega
  cases b with
  | true => exact ⟨true, all n⟩
  | false =>
    cases n with
    | zero => exact ⟨false, appends_nothing _⟩
    | succ n =>
      refine ⟨true, ((appends_burst_high (pix color) false).attempt
        ((all n).comp (u := State.nextPixel) (fun _ => rfl) (fun _ => rfl) fun _ => rfl) rfl).mono fun _ => ?_⟩
      omega

theorem spanBody_pixelStream (color : Color) : SpanBody .high pixelCount (pixelStream color) := by
  intro ρ k s s' hc ha
  obtain ⟨b, h⟩ := appends_pixels color (pixelCount s.cfg) false
  exact ⟨b, Appends.ofCfg (f := fun c u => pixels color (pixelCount c) { u with pixcnt := 0 }) hc
    ((h.comp (u := fun u => { u with pixcnt := 0 }) (fun _ => rfl) (fun _ => rfl) fun _ => rfl) ρ k s s' hc ha)⟩

theorem appends_pixelSpan (color : Color) :
    AppendsAlways (.between none) (.between none) (fun c => 3 + pixelCount c) (pixelSpan color) :=
  (appends_tagged (spanBody_pixelStream color)).congr (fun _ => rfl) (fun _ => rfl) (fun _ => rfl) fun _ => rfl

theorem appends_clearBody (color : Color) :
    AppendsAlways (.between none) (.between none) (fun c => 23 + pixelCount c) (clearBody color) :=
  (appends_windowBody.attempt (appends_pixelSpan color) rfl).mono fun c => by
    show 20 + (3 + pixelCount c) ≤ 23 + pixelCount c
    omega

theorem appends_resetPhase (v : Level) :
    AppendsAlways (.between none) (.between none) (fun _ => 2) (resetPhase v) :=
  (appends_drive .rst v fun _ => rfl).attempt (appends_wait resetHoldMs) rfl

theorem appends_resetBody : AppendsAlways (.between none) (.between none) (fun _ => 6) resetBody :=
  ((appends_resetPhase .high).attempt ((appends_resetPhase .low).attempt (appends_resetPhase .high) rfl) rfl).mono
    fun _ => Nat.le_refl _

theorem appends_tCommandBody (op : Byte) (ps : List Byte) :
    AppendsAlways (.between none) (.between none) (fun _ => 8) (tCommandBody op ps) :=
  (((appends_commandFrame op).attempt (appends_dataFrame ps) rfl).comp
    (u := fun s => { s with opc := op, data := ps }) (fun _ => rfl) (fun _ => rfl) fun _ => rfl).mono
      fun _ => Nat.le_refl _

theorem appends_tDelayBody (n : Nat) :
    AppendsAlways (.between none) (.between none) (fun _ => 1) (tDelayBody n) :=
  appends_wait fun _ => n

end Sys2Proof.Machine
end

