-- ==== Sys2Proof/Laws/Replay.lean ====
section
/-! SUPPORT. The replay of the table (R130) as a recursion over its entries, and what it can do. -/

namespace Sys2Proof.Machine

theorem commandFrame_nothingNewKnown (op : Byte) (s : State) : NothingNewKnown s (commandFrame op s).2 := by
  intro a y h
  have hg := (frame_ghost .low [op] s).2.2.2
  change Memory.read (if s.cs = .high ∧ (frame .low [op] s).1 = .ok ∧ isWindowCommand (frame .low [op] s).2.cfg op = true
    then (frame .low [op] s).2.frameMem else []) a = some y at h
  rw [hg] at h
  split at h
  · exact h
  · cases h

theorem commandFrame_seen (op : Byte) (s : State) : (commandFrame op s).2.seen = .nothing := rfl

/-- Parameters sent right after a command frame are not placed in FRAME. -/
theorem dataFrame_nothingNewKnown (bs : List Byte) {s : State} (h : s.seen = .nothing) :
    NothingNewKnown s (dataFrame bs s).2 := by
  intro a y hr
  have hg := frame_ghost .high bs s
  change Memory.read (frameAfter s.cs (frame .high bs s).2) a = some y at hr
  rw [frameAfter, hg.2.2.1, hg.2.2.2, h] at hr
  split at hr
  · exact hr
  · split at hr
    · cases hr
    · split at hr
      · exact hr
      · rw [if_neg (fun hh => by cases hh.1)] at hr
        cases hr

theorem NothingNewKnown.refl (s : State) : NothingNewKnown s s := fun _ _ h => h

theorem NothingNewKnown.trans {s t u : State} (h : NothingNewKnown s t) (h' : NothingNewKnown t u) : NothingNewKnown s u :=
  fun a y hr => h a y (h' a y hr)

/-- A command frame and then a data frame place nothing in FRAME. -/
theorem commandThenData_nothingNewKnown (op : Byte) (bs : List Byte) (s : State) :
    NothingNewKnown s (attempt (commandFrame op) (dataFrame bs) s).2 := by
  rcases attempt_cases (commandFrame op) (dataFrame bs) s with ⟨_, h⟩ | ⟨_, h⟩ <;> rw [h]
  · exact (commandFrame_nothingNewKnown op s).trans (dataFrame_nothingNewKnown bs (commandFrame_seen op s))
  · exact commandFrame_nothingNewKnown op s

/-- What the body of an entry leaves unchanged: all but the wires, the latches OPC and DATA, and the ghost state. -/
structure EntryKeeps (s t : State) : Prop extends KeepsBesideWire s t where
  status : t.status = s.status
  busy : t.busy = s.busy
  ctl : t.ctl = s.ctl
  activity : t.activity = s.activity
  pixcnt : t.pixcnt = s.pixcnt
  nothingNewKnown : NothingNewKnown s t

theorem EntryKeeps.trans {s t u : State} (h : EntryKeeps s t) (h' : EntryKeeps t u) : EntryKeeps s u where
  cfg := h'.cfg.trans h.cfg
  requests := h'.requests.trans h.requests
  refusals := h'.refusals.trans h.refusals
  rst := h'.rst.trans h.rst
  bl := h'.bl.trans h.bl
  color := h'.color.trans h.color
  duty := h'.duty.trans h.duty
  status := h'.status.trans h.status
  busy := h'.busy.trans h.busy
  ctl := h'.ctl.trans h.ctl
  activity := h'.activity.trans h.activity
  pixcnt := h'.pixcnt.trans h.pixcnt
  nothingNewKnown := h.nothingNewKnown.trans h'.nothingNewKnown

theorem EntryKeeps.ofWire {s t : State} (h : WireOnly s t) (hp : t.pixcnt = s.pixcnt) (hn : NothingNewKnown s t) :
    EntryKeeps s t :=
  ⟨⟨⟨h.cfg, h.requests, h.refusals⟩, h.rst, h.bl, h.color, h.duty⟩, h.status, h.busy, h.ctl, h.activity, hp, hn⟩

theorem commandFrame_pixcnt (op : Byte) (s : State) : (commandFrame op s).2.pixcnt = s.pixcnt :=
  (frame_ghost .low [op] s).1

theorem dataFrame_pixcnt (bs : List Byte) (s : State) : (dataFrame bs s).2.pixcnt = s.pixcnt :=
  (frame_ghost .high bs s).1

theorem commandThenData_pixcnt (op : Byte) (bs : List Byte) (s : State) :
    (attempt (commandFrame op) (dataFrame bs) s).2.pixcnt = s.pixcnt := by
  rcases attempt_cases (commandFrame op) (dataFrame bs) s with ⟨_, h⟩ | ⟨_, h⟩ <;> rw [h]
  · rw [dataFrame_pixcnt, commandFrame_pixcnt]
  · rw [commandFrame_pixcnt]

theorem entryBody_keeps (e : CommandEntry) (s : State) : EntryKeeps s (entryBody e s).2 := by
  cases e with
  | command op ps =>
    exact EntryKeeps.trans (t := { s with opc := op, data := ps })
      ⟨⟨⟨rfl, rfl, rfl⟩, rfl, rfl, rfl, rfl⟩, rfl, rfl, rfl, rfl, rfl, NothingNewKnown.refl s⟩
      (EntryKeeps.ofWire (wireOnly_attempt (wireOnly_commandFrame op) (wireOnly_dataFrame ps) _)
        (commandThenData_pixcnt op ps _) (commandThenData_nothingNewKnown op ps _))
  | delay n => exact ⟨⟨⟨rfl, rfl, rfl⟩, rfl, rfl, rfl, rfl⟩, rfl, rfl, rfl, rfl, rfl, NothingNewKnown.refl s⟩

theorem entryBody_tix (e : CommandEntry) (s : State) : (entryBody e s).2.tix = s.tix := by
  cases e with
  | command op ps => exact (wireOnly_attempt (wireOnly_commandFrame op) (wireOnly_dataFrame ps) _).tix
  | delay n => rfl

/-- The replay of a list of entries, in order. -/
def replayList : List CommandEntry → State → Result × State
  | [], s => (.ok, s)
  | e :: es, s => attempt (entryBody e) (fun s' => replayList es s'.nextEntry) s

/-- R130, R134: the loop over `TABLE[TIX]` is the recursion over the entries from `TIX` on. -/
theorem replay_eq_replayList (fuel : Nat) (s : State) (h : tableLen s.cfg - s.tix ≤ fuel) :
    replay fuel s = replayList (s.cfg.initTable.drop s.tix) s := by
  induction fuel generalizing s with
  | zero =>
    have hd : s.cfg.initTable.drop s.tix = [] := by
      rw [List.drop_eq_nil_iff]
      simp only [tableLen] at h
      omega
    rw [hd]
    rfl
  | succ fuel ih =>
    simp only [replay]
    cases hg : s.cfg.initTable[s.tix]? with
    | none =>
      have hd : s.cfg.initTable.drop s.tix = [] := by
        rw [List.drop_eq_nil_iff]
        exact List.getElem?_eq_none_iff.1 hg
      rw [hd]
      rfl
    | some e =>
      obtain ⟨hlt, he⟩ := List.getElem?_eq_some_iff.1 hg
      have hd : s.cfg.initTable.drop s.tix = e :: s.cfg.initTable.drop (s.tix + 1) := by
        rw [List.drop_eq_getElem_cons hlt, he]
      rw [hd, replayList]
      simp only
      rcases attempt_cases (entryBody e) (fun s' => replay fuel s'.nextEntry) s with ⟨hok, ha⟩ | ⟨⟨k, c, herr⟩, ha⟩
      · rw [ha, attempt_ok hok, ih]
        · simp only [nextEntry_cfg, nextEntry_tix, (entryBody_keeps e s).cfg, entryBody_tix]
        · simp only [nextEntry_cfg, nextEntry_tix, (entryBody_keeps e s).cfg, entryBody_tix]
          omega
      · rw [ha, attempt_err herr]

/-- R130: `init_body()` replays the whole table from entry 0. -/
theorem initBody_eq (s : State) : initBody s = replayList s.cfg.initTable { s with tix := 0 } :=
  replay_eq_replayList (tableLen s.cfg) { s with tix := 0 } (Nat.le_refl _)

theorem replayList_keeps (es : List CommandEntry) (s : State) : EntryKeeps s (replayList es s).2 := by
  induction es generalizing s with
  | nil => exact ⟨⟨⟨rfl, rfl, rfl⟩, rfl, rfl, rfl, rfl⟩, rfl, rfl, rfl, rfl, rfl, NothingNewKnown.refl s⟩
  | cons e es ih =>
    refine attempt_rel (R := EntryKeeps) EntryKeeps.trans (entryBody_keeps e) (fun u => ?_) s
    exact EntryKeeps.trans (t := u.nextEntry)
      ⟨⟨⟨rfl, rfl, rfl⟩, rfl, rfl, rfl, rfl⟩, rfl, rfl, rfl, rfl, rfl, NothingNewKnown.refl u⟩ (ih _)

/-- R30: `TIX` advances by one for each entry completed, and never past the end. -/
theorem replayList_tix (es : List CommandEntry) (s : State) :
    s.tix ≤ (replayList es s).2.tix ∧ (replayList es s).2.tix ≤ s.tix + es.length ∧
      ((replayList es s).1 = .ok → (replayList es s).2.tix = s.tix + es.length) := by
  induction es generalizing s with
  | nil => exact ⟨Nat.le_refl _, Nat.le_refl _, fun _ => rfl⟩
  | cons e es ih =>
    simp only [replayList]
    rcases attempt_cases (entryBody e) (fun s' => replayList es s'.nextEntry) s with ⟨_, ha⟩ | ⟨⟨k, c, herr⟩, ha⟩ <;>
      rw [ha]
    · have h := ih (entryBody e s).2.nextEntry
      simp only [nextEntry_tix, entryBody_tix] at h
      simp only [List.length_cons]
      exact ⟨by omega, by omega, fun hok => by have := h.2.2 hok; omega⟩
    · rw [entryBody_tix, herr]
      exact ⟨Nat.le_refl _, Nat.le_add_right _ _, fun hok => by cases hok⟩

/-- R246: the most primitives a list of entries issues. -/
def entriesBound : List CommandEntry → Nat
  | [] => 0
  | .command _ _ :: es => 8 + entriesBound es
  | .delay _ :: es => 1 + entriesBound es

theorem appends_entryBody (e : CommandEntry) :
    AppendsAlways (.between none) (.between none) (fun _ => entriesBound [e]) (entryBody e) := by
  cases e with
  | command op ps => exact appends_tCommandBody op ps
  | delay n => exact appends_tDelayBody n

theorem appends_replayList (es : List CommandEntry) :
    AppendsAlways (.between none) (.between none) (fun _ => entriesBound es) (replayList es) := by
  induction es with
  | nil => exact appends_nothing _
  | cons e es ih =>
    refine ((appends_entryBody e).attempt
      (ih.comp (u := State.nextEntry) (fun _ => rfl) (fun _ => rfl) fun _ => rfl) rfl).mono fun _ => ?_
    cases e <;> simp [entriesBound]

theorem appends_initBody :
    AppendsAlways (.between none) (.between none) (fun c => entriesBound c.initTable) initBody := by
  intro ρ k s s' hc ha
  have h := Appends.ofCfg (f := fun c u => replayList c.initTable { u with tix := 0 }) hc
    (((appends_replayList s.cfg.initTable).comp (u := fun u => { u with tix := 0 }) (fun _ => rfl) (fun _ => rfl)
      fun _ => rfl) ρ k s s' hc ha)
  have e : initBody = fun u => replayList u.cfg.initTable { u with tix := 0 } := funext initBody_eq
  rw [e]
  exact h

end Sys2Proof.Machine
end

