-- ==== Sys2Proof/Laws/Step.lean ====
section
/-! SUPPORT. What one step can be, said once: the cases of `step`, with what each knows of the state. -/

namespace Sys2Proof.Machine

/-- R73: what the host port accepts is a host request. -/
theorem decodeHost_space {w : Nat} {bytes : List Byte} {i : Instr} (h : decodeHost w bytes = .ok i) :
    i.space = .host := by
  cases bytes with
  | nil => cases h
  | cons code rest =>
    simp only [decodeHost] at h
    split at h
    · unfold decodeOp8 at h; split at h <;> cases h; rfl
    · unfold decodeVar at h; split at h; split at h <;> cases h; rfl; cases h
    · cases rest <;> cases h; rfl
    · cases rest <;> cases h; rfl
    · cases rest <;> cases h; rfl
    · unfold decodeC16 at h; split at h <;> cases h; rfl
    · unfold decodeDuty at h; split at h; split at h <;> cases h; rfl; cases h
    · cases h

/-- R75, R84: the host port rejects for one of three reasons. -/
theorem decodeHost_error {w : Nat} {bytes : List Byte} {e : DecodeError} (h : decodeHost w bytes = .error e) :
    e = .notWhole ∨ (∃ code, e = .reservedCode code) ∨ e = .reservedDuty := by
  cases bytes with
  | nil => cases h; simp
  | cons code rest =>
    simp only [decodeHost] at h
    split at h
    · unfold decodeOp8 at h; split at h <;> cases h; simp
    · unfold decodeVar at h; split at h; split at h <;> cases h; simp; cases h; simp
    · cases rest <;> cases h; simp
    · cases rest <;> cases h; simp
    · cases rest <;> cases h; simp
    · unfold decodeC16 at h; split at h <;> cases h; simp
    · unfold decodeDuty at h; split at h; split at h <;> cases h; simp; cases h; simp
    · cases h; simp

/-- The cases of a step. -/
inductive StepIs (s : State) : Host.Outcome State Fault Refusal → Prop
  /-- Inside INITIALIZE: the entry `TABLE[TIX]`. -/
  | entry (e : CommandEntry) (busy : s.busy = true) (inside : s.activity = .replay)
      (at_ : s.cfg.initTable[s.tix]? = some e) : StepIs s (exec e.toInstr s)
  /-- Inside the window body: its next command. -/
  | wire (i : Instr) (busy : s.busy = true) (which : i = .caset ∨ i = .paset ∨ i = .ramwr) : StepIs s (exec i s)
  /-- Idle: a request of the host. -/
  | host (i : Instr) (idle : s.busy = false) (space : i.space = .host) : StepIs s (exec i s.takeRequest)
  /-- Idle, nothing presented. -/
  | wait (idle : s.busy = false) : StepIs s (.next s)
  /-- The operation under way returns. -/
  | finish (busy : s.busy = true) (inside : s.activity ≠ .idle) : StepIs s (.next (finish s))
  /-- A reserved request. -/
  | reserved (idle : s.busy = false) : StepIs s (.next s.takeRequest.refuseRequest)
  /-- No whole request. -/
  | notWhole (bytes : List Byte) (rest : List (List Byte)) (idle : s.busy = false)
      (presented : s.env.requests = bytes :: rest) (why : decodeHost s.cfg.dutyW.val bytes = .error .notWhole) :
      StepIs s (.refused .notAWholeRequest)
  /-- Busy with nothing. -/
  | noMove (busy : s.busy = true) (inside : s.activity = .idle) : StepIs s (.fault .noMove)

theorem step_is (s : State) : StepIs s (step s) := by
  unfold step fetch
  cases hb : s.busy with
  | false =>
    simp only [fetchHost]
    cases hr : s.env.requests with
    | nil => exact .wait hb
    | cons bytes rest =>
      simp only
      cases hd : decodeHost s.cfg.dutyW.val bytes with
      | ok i => exact .host i hb (decodeHost_space hd)
      | error e =>
        rcases decodeHost_error hd with rfl | ⟨code, rfl⟩ | rfl
        · exact .notWhole bytes rest hb hr hd
        · exact .reserved hb
        · exact .reserved hb
  | true =>
    simp only [if_true]
    cases ha : s.activity with
    | idle => exact .noMove hb ha
    | replay =>
      simp only [fetchEntry]
      cases hg : s.cfg.initTable[s.tix]? with
      | none => exact .finish hb (by simp [ha])
      | some e => exact .entry e hb ha hg
    | window st =>
      cases st <;> simp only [fetchStage] <;> first | exact .finish hb (by simp [ha]) | exact .wire _ hb (by simp)
    | clearing st =>
      cases st <;> simp only [fetchStage] <;> first | exact .finish hb (by simp [ha]) | exact .wire _ hb (by simp)

end Sys2Proof.Machine
end

