-- ==== Sys2Proof/Laws/Stream.lean ====
section
/-! SUPPORT. What every procedure does to STREAM and to the reading of it in the trace (R38), said once. -/

namespace Sys2Proof.Machine

theorem streamRun_append (op : Byte) (es fs : List Event) :
    streamRun op (es ++ fs) = fs.foldl (streamNext op) (streamRun op es) := List.foldl_append

/-- A procedure that leaves STREAM alone, and whose events outside a command frame do not move the reading of it. -/
def StreamQuiet (f : State → Result × State) : Prop :=
  ∀ s, ∃ es, (f s).2.trace = s.trace ++ es ∧ (f s).2.stream = s.stream ∧
    ∀ op st, es.foldl (streamNext op) (st, .outside) = (st, .outside)

theorem StreamQuiet.attempt {f g : State → Result × State} (hf : StreamQuiet f) (hg : StreamQuiet g) :
    StreamQuiet (attempt f g) := by
  intro s
  obtain ⟨es, e1, e2, e3⟩ := hf s
  rcases attempt_cases f g s with ⟨_, h⟩ | ⟨_, h⟩ <;> rw [h]
  · obtain ⟨fs, f1, f2, f3⟩ := hg (f s).2
    exact ⟨es ++ fs, by rw [f1, e1, List.append_assoc], f2.trans e2, fun op st => by rw [List.foldl_append, e3, f3]⟩
  · exact ⟨es, e1, e2, e3⟩

theorem streamQuiet_drive_cs (v : Level) : StreamQuiet (drive .cs v) :=
  fun s => ⟨_, drive_trace .cs v s, rfl, fun op st => by cases v <;> cases s.answerAt 0 <;> rfl⟩

theorem streamQuiet_drive_dc_high : StreamQuiet (drive .dc .high) :=
  fun s => ⟨_, drive_trace .dc .high s, rfl, fun op st => by cases s.answerAt 0 <;> rfl⟩

theorem streamQuiet_burst (bs : List Byte) : StreamQuiet (burst bs) :=
  fun s => ⟨_, burst_trace bs s, rfl, fun op st => by cases s.answerAt 0 <;> rfl⟩

theorem StreamQuiet.span {f : State → Result × State} (hf : StreamQuiet f) : StreamQuiet (span f) := by
  intro s
  obtain ⟨as, a1, a2, a3⟩ := streamQuiet_drive_cs .low { s with inflight := true }
  obtain ⟨bs, b1, b2, b3⟩ : ∃ bs, (spanInside f (openSpan s)).2.trace = (openSpan s).2.trace ++ bs ∧
      (spanInside f (openSpan s)).2.stream = (openSpan s).2.stream ∧
      ∀ op st, bs.foldl (streamNext op) (st, .outside) = (st, .outside) := by
    rw [spanInside]
    cases (openSpan s).1 with
    | ok => exact hf _
    | err k c => exact ⟨[], (List.append_nil _).symm, rfl, fun _ _ => rfl⟩
  obtain ⟨cs, c1, c2, c3⟩ :=
    streamQuiet_drive_cs .high { (spanInside f (openSpan s)).2 with inflight := false }
  refine ⟨as ++ (bs ++ cs), ?_, c2.trans (b2.trans a2), fun op st => by
    rw [List.foldl_append, List.foldl_append, a3, b3, c3]⟩
  rw [← List.append_assoc, ← List.append_assoc]
  exact c1.trans (congrArg (· ++ cs) (b1.trans (congrArg (· ++ bs) a1)))

theorem StreamQuiet.dataSpan {f : State → Result × State} (hf : StreamQuiet f) : StreamQuiet (dataSpan f) := by
  intro s
  exact (streamQuiet_drive_dc_high.attempt hf.span) { s with sent := [] }

theorem streamQuiet_dataFrame (bs : List Byte) : StreamQuiet (dataFrame bs) := (streamQuiet_burst bs).dataSpan

theorem streamQuiet_pixels (color : Color) (n : Nat) : StreamQuiet (pixels color n) := by
  induction n with
  | zero => exact fun s => ⟨[], (List.append_nil _).symm, rfl, fun _ _ => rfl⟩
  | succ n ih => exact (streamQuiet_burst _).attempt fun s => ih s.nextPixel

theorem streamQuiet_pixelSpan (color : Color) : StreamQuiet (pixelSpan color) :=
  StreamQuiet.dataSpan fun s => streamQuiet_pixels color (pixelCount s.cfg) { s with pixcnt := 0 }

theorem streamQuiet_tDelayBody (n : Nat) : StreamQuiet (tDelayBody n) :=
  fun s => ⟨_, wait_trace n s, rfl, fun _ _ => rfl⟩

/-- A procedure that leaves STREAM as its events say, from outside a command frame to outside one. -/
def StreamTold (f : State → Result × State) : Prop :=
  ∀ s, ∃ es, (f s).2.trace = s.trace ++ es ∧
    es.foldl (streamNext s.cfg.opRamwr) (s.stream, .outside) = ((f s).2.stream, .outside)

theorem StreamQuiet.told {f : State → Result × State} (hf : StreamQuiet f) : StreamTold f := fun s => by
  obtain ⟨es, e1, e2, e3⟩ := hf s
  exact ⟨es, e1, by rw [e3, e2]⟩

/-- R38: `STREAM` after a command frame. -/
theorem commandFrame_stream (op : Byte) (s : State) :
    (commandFrame op s).2.stream = decide ((frameRun .low [op] s.answerAt).2 = .ok ∧ op = s.cfg.opRamwr) := by
  have h := (frame_runs .low [op] s).result
  have e : (framesRun [(Level.low, [op])] s.answerAt).2 = (frameRun .low [op] s.answerAt).2 := by
    simp only [framesRun]
    cases (frameRun .low [op] s.answerAt).2 <;> rfl
  rw [← e, ← h, ← (wireOnly_frame .low [op] s).cfg]
  rfl

theorem streamTold_commandFrame (op : Byte) : StreamTold (commandFrame op) := by
  intro s
  have ht : (commandFrame op s).2.trace = s.trace ++ (frameRun .low [op] s.answerAt).1 := by
    have h := (commandFrame_runs op s).trace
    have e : (framesRun [(Level.low, [op])] s.answerAt).1 = (frameRun .low [op] s.answerAt).1 := by
      simp only [framesRun]
      cases (frameRun .low [op] s.answerAt).2 <;> simp
    rw [h, e]
  refine ⟨_, ht, ?_⟩
  rw [commandFrame_stream]
  generalize s.answerAt = ans
  cases h0 : ans 0 <;> cases h1 : ans 1 <;> cases h2 : ans 2 <;> cases h3 : ans 3 <;>
    by_cases ho : op = s.cfg.opRamwr <;>
    simp [frameRun, frameTable, frameEvents, streamNext, h0, h1, h2, h3, ho]

theorem StreamTold.attempt {f g : State → Result × State} (hf : StreamTold f) (hg : StreamTold g)
    (hc : ∀ s, (f s).2.cfg = s.cfg) : StreamTold (attempt f g) := by
  intro s
  obtain ⟨es, e1, e2⟩ := hf s
  rcases attempt_cases f g s with ⟨_, h⟩ | ⟨_, h⟩ <;> rw [h]
  · obtain ⟨fs, f1, f2⟩ := hg (f s).2
    rw [hc] at f2
    exact ⟨es ++ fs, by rw [f1, e1, List.append_assoc], by rw [List.foldl_append, e2, f2]⟩
  · exact ⟨es, e1, e2⟩

/-- A procedure with the same trace and STREAM. -/
theorem StreamTold.congr {f g : State → Result × State} (hf : StreamTold f)
    (hlog : ∀ s, (g s).2.log = (f s).2.log) (hs : ∀ s, (g s).2.stream = (f s).2.stream) : StreamTold g := fun s => by
  obtain ⟨es, e1, e2⟩ := hf s
  exact ⟨es, (trace_eq_of_log (hlog s)).trans e1, by rw [e2, hs]⟩

theorem StreamTold.noteSeen {f : State → Result × State} (hf : StreamTold f) (w : State → WindowSeen) :
    StreamTold fun s => noteSeen (w s) (f s) := by
  refine hf.congr ?_ ?_ <;> (intro s; simp only [Machine.noteSeen]; cases (f s).1 <;> rfl)

theorem streamTold_columnStep : StreamTold columnStep :=
  StreamTold.noteSeen (fun s => ((streamTold_commandFrame s.cfg.opCaset).attempt
    (streamQuiet_dataFrame (columnParams s.cfg)).told fun s => (wireOnly_commandFrame _ s).cfg) s) _

theorem streamTold_rowStep : StreamTold rowStep :=
  StreamTold.noteSeen (fun s => ((streamTold_commandFrame s.cfg.opPaset).attempt
    (streamQuiet_dataFrame (rowParams s.cfg)).told fun s => (wireOnly_commandFrame _ s).cfg) s) _

theorem streamTold_memoryStep : StreamTold memoryStep :=
  StreamTold.noteSeen (fun s => streamTold_commandFrame s.cfg.opRamwr s) _

theorem streamTold_windowBody : StreamTold windowBody :=
  streamTold_columnStep.attempt (streamTold_rowStep.attempt streamTold_memoryStep fun s => (wireOnly_rowStep s).cfg)
    fun s => (wireOnly_columnStep s).cfg

theorem streamTold_clearBody (color : Color) : StreamTold (clearBody color) :=
  streamTold_windowBody.attempt (streamQuiet_pixelSpan color).told fun s => (wireOnly_windowBody s).cfg

theorem streamTold_entryBody (e : CommandEntry) : StreamTold (entryBody e) := by
  cases e with
  | command op ps =>
    exact fun s => ((streamTold_commandFrame op).attempt (streamQuiet_dataFrame ps).told
      fun s => (wireOnly_commandFrame op s).cfg) { s with opc := op, data := ps }
  | delay n => exact (streamQuiet_tDelayBody n).told

theorem streamTold_replayList (es : List CommandEntry) : StreamTold (replayList es) := by
  induction es with
  | nil => exact fun s => ⟨[], (List.append_nil _).symm, rfl⟩
  | cons e es ih => exact (streamTold_entryBody e).attempt (fun s => ih s.nextEntry) fun s => (entryBody_keeps e s).cfg

theorem streamTold_initBody : StreamTold initBody := fun s => by
  rw [initBody_eq]
  exact streamTold_replayList s.cfg.initTable { s with tix := 0 }

/-- A procedure whose events end the pixel mode, whatever they are answered. -/
def StreamEnds (f : State → Result × State) : Prop :=
  ∀ s, ∃ es, (f s).2.trace = s.trace ++ es ∧ ∀ op st, es.foldl (streamNext op) (st, .outside) = (false, .outside)

theorem StreamEnds.attempt {f g : State → Result × State} (hf : StreamEnds f) (hg : StreamEnds g) :
    StreamEnds (attempt f g) := by
  intro s
  obtain ⟨es, e1, e2⟩ := hf s
  rcases attempt_cases f g s with ⟨_, h⟩ | ⟨_, h⟩ <;> rw [h]
  · obtain ⟨fs, f1, f2⟩ := hg (f s).2
    exact ⟨es ++ fs, by rw [f1, e1, List.append_assoc], fun op st => by rw [List.foldl_append, e2, f2]⟩
  · exact ⟨es, e1, e2⟩

theorem streamEnds_resetPhase (v : Level) : StreamEnds (resetPhase v) := by
  intro s
  rcases attempt_cases (drive .rst v) (fun s => (.ok, wait (resetHoldMs s.cfg) s)) s with ⟨_, h⟩ | ⟨_, h⟩ <;>
    rw [resetPhase, h]
  · exact ⟨[_, _], by rw [wait_trace, drive_trace, List.append_assoc]; rfl, fun _ _ => rfl⟩
  · exact ⟨_, drive_trace _ _ _, fun _ _ => rfl⟩

/-- R38: RESET's first RST write ends the pixel mode, whatever it is answered. -/
theorem streamTold_noteReset : StreamTold fun s => noteReset (resetBody s) := fun s => by
  obtain ⟨es, e1, e2⟩ := ((streamEnds_resetPhase .high).attempt
    ((streamEnds_resetPhase .low).attempt (streamEnds_resetPhase .high))) s
  exact ⟨es, e1, e2 _ _⟩

/-! ## STREAM after each procedure (R38) -/

@[simp] theorem noteSeen_stream (w : WindowSeen) (p : Result × State) : (noteSeen w p).2.stream = p.2.stream := by
  rcases p with ⟨_ | _, s⟩ <;> rfl

@[simp] theorem wireDone_stream (p : Result × State) : (wireDone p).stream = p.2.stream := by
  rcases p with ⟨_ | _, s⟩
  · simp only [wireDone, State.advanceStage]
    split <;> rfl
  · rfl

@[simp] theorem entryDone_stream (p : Result × State) : (entryDone p).stream = p.2.stream := by
  rcases p with ⟨_ | _, s⟩ <;> rfl

/-- A data frame after a command frame leaves STREAM as the command frame left it. -/
theorem commandThenData_stream (op : Byte) (ps : List Byte) (s : State) :
    (attempt (commandFrame op) (dataFrame ps) s).2.stream =
      decide ((frameRun .low [op] s.answerAt).2 = .ok ∧ op = s.cfg.opRamwr) := by
  rw [← commandFrame_stream]
  rcases attempt_cases (commandFrame op) (dataFrame ps) s with ⟨_, h⟩ | ⟨_, h⟩ <;> rw [h]
  obtain ⟨_, -, h, -⟩ := streamQuiet_dataFrame ps (commandFrame op s).2
  exact h

theorem columnStep_stream (s : State) :
    (columnStep s).2.stream =
      decide ((frameRun .low [s.cfg.opCaset] s.answerAt).2 = .ok ∧ s.cfg.opCaset = s.cfg.opRamwr) := by
  rw [columnStep, noteSeen_stream, commandThenData_stream]

theorem rowStep_stream (s : State) :
    (rowStep s).2.stream =
      decide ((frameRun .low [s.cfg.opPaset] s.answerAt).2 = .ok ∧ s.cfg.opPaset = s.cfg.opRamwr) := by
  rw [rowStep, noteSeen_stream, commandThenData_stream]

theorem memoryStep_stream (s : State) :
    (memoryStep s).2.stream = decide ((frameRun .low [s.cfg.opRamwr] s.answerAt).2 = .ok) := by
  rw [memoryStep, noteSeen_stream, commandFrame_stream]
  simp

theorem tCommandBody_stream (op : Byte) (ps : List Byte) (s : State) :
    (tCommandBody op ps s).2.stream = decide ((frameRun .low [op] s.answerAt).2 = .ok ∧ op = s.cfg.opRamwr) :=
  commandThenData_stream op ps { s with opc := op, data := ps }

end Sys2Proof.Machine
end

