-- ==== Sys2Proof/Tests/Slice0.lean ====
section
/-! SUPPORT. Tests: the smoke test of WellFormed, words decoded by hand, one-step tests with the expected results
of spec/95_test_vectors.md (V and P numbers), and a witness for the hypotheses of every obligation. -/

namespace Sys2Proof.Tests

open Sys2Proof.Machine

/-! ## Helpers -/

/-- The table `T_EX` of spec/95_test_vectors.md. -/
def tEx : List CommandEntry := [.command 0xA1 [0x01, 0x02], .delay 5, .command 0xB2 []]

/-- The configuration `SMALL` of spec/95_test_vectors.md, with the table `T_EX`. -/
def small : Config := ⟨⟨3, by decide⟩, ⟨2, by decide⟩, tEx, 0x2A, 0x2B, 0x2C, ⟨16, by decide⟩, ⟨100, rfl⟩⟩

/-- `n` answers `ok`. -/
def oks (n : Nat) : List Answer := List.replicate n .ok

/-- The answer to a failing request: some cause, `k` bytes out, the line at its previous level. -/
def bad (k : Nat) : Answer := .fail k false Cause.any

/-- The state after construction with `SMALL`, and the answers to come. -/
def start (answers : List Answer) : State :=
  { State.construct small with env := { requests := [], answers := answers, drawn := 0, refusals := 0 } }

/-- The same, the controller Ready. -/
def startReady (answers : List Answer) : State := { start answers with ctl := .ready }

/-- The same, inside an operation. -/
def inside (a : Activity) (answers : List Answer) : State := (start answers).begin a

/-- The same, one more byte of FRAME known. -/
def knowing (a : Nat) (y : Byte) (answers : List Answer) : State := { startReady answers with frameMem := [(a, y)] }

/-- The state after one outcome. -/
def after : Host.Outcome State Fault Refusal → Option State
  | .next s => some s
  | .fault _ => none
  | .refused _ => none

/-- One field of the state after an instruction. -/
def look {α : Type} (f : State → α) (i : Instr) (s : State) : Option α := (after (exec i s)).map f

/-! ## WellFormed smoke: an ill-formed term for each check, refused (R75, R73, R76) -/

theorem test_wf_sendData_too_long :
    Instr.wf small (.sendData (List.replicate (2 ^ 32) 0)) = false := by
  rw [Instr.wf, List.length_replicate]
  decide

theorem test_wf_setBacklight_too_wide : Instr.wf small (.setBacklight 0x10000) = false := by decide

theorem test_wf_tCommand_too_many : Instr.wf small (.tCommand 0xA1 (List.replicate 256 0)) = false := by
  rw [Instr.wf, List.length_replicate]
  decide

theorem test_wf_tDelay_too_long : Instr.wf small (.tDelay (2 ^ 32)) = false := by decide

theorem test_wf_table : tableWf small (.delay (2 ^ 32) :: tEx) = false := by decide

theorem test_wf_opcodesDistinct : Config.opcodesDistinct { small with opPaset := 0x2C } = false := by decide

/-! ## Decoding: words written out from the spec's bit pictures (R73, R76, R80 to R82; V50 to V61) -/

theorem test_decode_sendCommand : decodeHost 16 [0b00000001, 0b00101010] = .ok (.sendCommand 0x2A) := by decide

theorem test_decode_sendData :
    decodeHost 16 [0b00000010, 0, 0, 0, 0b00000100, 0, 0, 0, 0b11101111] = .ok (.sendData [0x00, 0x00, 0x00, 0xEF]) := by
  decide

theorem test_decode_sendData_empty : decodeHost 16 [0x02, 0, 0, 0, 0] = .ok (.sendData []) := by decide

theorem test_decode_reset : decodeHost 16 [0b00000011] = .ok .reset := by decide

theorem test_decode_initializePanel : decodeHost 16 [0b00000100] = .ok .initializePanel := by decide

theorem test_decode_setFullWindow : decodeHost 16 [0b00000101] = .ok .setFullWindow := by decide

theorem test_decode_clear : decodeHost 16 [0b00000110, 0b11111000, 0b00000000] = .ok (.clear 0xF800) := by decide

theorem test_decode_setBacklight :
    decodeHost 16 [0b00000111, 0b10000000, 0b00000000] = .ok (.setBacklight 0x8000) := by decide

theorem test_decode_tCommand :
    decode small .table [0b00000000, 0b10100001, 0b00000010, 0x01, 0x02] = .ok (.tCommand 0xA1 [0x01, 0x02]) := by decide

theorem test_decode_tDelay : decode small .table [0b00000001, 0, 0, 0, 0b01111000] = .ok (.tDelay 120) := by decide

theorem test_decode_caset : decode small .wire [0b00101010] = .ok .caset := by decide

theorem test_decode_paset : decode small .wire [0b00101011] = .ok .paset := by decide

theorem test_decode_ramwr : decode small .wire [0b00101100] = .ok .ramwr := by decide

theorem test_decode_reserved :
    decodeHost 16 [0x00] = .error (.reservedCode 0x00) ∧ decodeHost 16 [0x08] = .error (.reservedCode 0x08) ∧
      decodeHost 12 [0x07, 0x10, 0x00] = .error .reservedDuty ∧ decodeHost 16 [0x01] = .error .notWhole := by decide

theorem test_decodeTable :
    decodeTable [0x00, 0xA1, 0x02, 0x01, 0x02, 0x01, 0x00, 0x00, 0x00, 0x05, 0x00, 0xB2, 0x00] = .ok tEx ∧
      decodeTable [] = .ok [] := by decide

/-- Words of the opcode table, bit 0 the least significant bit of the first byte. -/
theorem test_decodeTableWord :
    decodeTableWord 16 0x2A01 = some (.sendCommand 0x2A) ∧ decodeTableWord 24 0x00F806 = some (.clear 0xF800) ∧
      decodeTableWord 40 0x7800000001 = some (.tDelay 120) ∧ decodeTableWord 24 0x00B200 = some (.tCommand 0xB2 []) ∧
      decodeTableWord 8 0x2B = some .paset ∧ decodeTableWord 8 0x09 = none := by decide

/-! ## One step each (V1 to V42) -/

/-- V1. -/
theorem test_sendCommand :
    look (fun t => (t.trace, t.dc, t.cs)) (.sendCommand 0x2C) (start (oks 4)) =
      some ([.line .dc .low .ok, .line .cs .low .ok, .tx [0x2C] .ok, .line .cs .high .ok, .ret .sendCommand .ok],
        .low, .high) := by decide

/-- V9d, case F3: the first cause is returned, the second dropped; both writes may leave CS low. -/
theorem test_sendCommand_both_fail (c d : Cause) :
    look (fun t => (t.trace, t.cs)) (.sendCommand 0x2A) (start [.ok, .fail 0 true c, .fail 0 false d]) =
      some ([.line .dc .low .ok, .line .cs .low (.fail c), .line .cs .high (.fail d),
        .ret .sendCommand (.err .gpio c)], .low) := rfl

/-- V6, case F4. -/
theorem test_sendData_fails :
    look (fun t => (t.trace, t.cs)) (.sendData [0x11, 0x22, 0x33]) (start [.ok, .ok, bad 1, .ok]) =
      some ([.line .dc .high .ok, .line .cs .low .ok, .tx [0x11, 0x22, 0x33] (.fail 1 Cause.any), .line .cs .high .ok,
        .ret .sendData (.err .spi Cause.any)], .high) := rfl

/-- V9c: a zero-length burst may fail, with no byte out. -/
theorem test_sendData_empty_fails :
    look (fun t => (t.trace, t.status)) (.sendData []) (start [.ok, .ok, bad 1, .ok]) =
      some ([.line .dc .high .ok, .line .cs .low .ok, .tx [] (.fail 0 Cause.any), .line .cs .high .ok,
        .ret .sendData (.err .spi Cause.any)], .err .spi Cause.any) := rfl

/-- V10. -/
theorem test_reset :
    look (fun t => (t.trace, t.rst, t.ctl)) .reset (start (oks 3)) =
      some ([.line .rst .high .ok, .wait 100, .line .rst .low .ok, .wait 100, .line .rst .high .ok, .wait 100,
        .ret .reset .ok], .high, .postReset) := by decide

/-- V13: the second write fails. -/
theorem test_reset_second_fails :
    look (fun t => (t.trace, t.rst, t.ctl)) .reset (start [.ok, bad 0]) =
      some ([.line .rst .high .ok, .wait 100, .line .rst .low (.fail Cause.any), .ret .reset (.err .gpio Cause.any)], .high,
        .unknown) := rfl

/-- V20. -/
theorem test_initializePanel :
    look (fun t => (t.trace, t.tix)) .initializePanel (start (oks 16)) =
      some ([.line .dc .low .ok, .line .cs .low .ok, .tx [0xA1] .ok, .line .cs .high .ok, .line .dc .high .ok,
        .line .cs .low .ok, .tx [0x01, 0x02] .ok, .line .cs .high .ok, .wait 5, .line .dc .low .ok, .line .cs .low .ok,
        .tx [0xB2] .ok, .line .cs .high .ok, .line .dc .high .ok, .line .cs .low .ok, .tx [] .ok, .line .cs .high .ok,
        .ret .initializePanel .ok], 3) := by decide

/-- V23: the DC write of entry 2's command frame fails. -/
theorem test_initializePanel_fails :
    look (fun t => (t.trace.drop 9, t.tix, t.ctl)) .initializePanel (start (oks 8 ++ [bad 0])) =
      some ([.line .dc .low (.fail Cause.any), .ret .initializePanel (.err .gpio Cause.any)], 2, .unusable) := rfl

/-- V32, on `SMALL`. -/
theorem test_setFullWindow :
    look (fun t => (t.trace, t.stream)) .setFullWindow (start (oks 20)) =
      some ([.line .dc .low .ok, .line .cs .low .ok, .tx [0x2A] .ok, .line .cs .high .ok, .line .dc .high .ok,
        .line .cs .low .ok, .tx [0x00, 0x00, 0x00, 0x02] .ok, .line .cs .high .ok, .line .dc .low .ok,
        .line .cs .low .ok, .tx [0x2B] .ok, .line .cs .high .ok, .line .dc .high .ok, .line .cs .low .ok,
        .tx [0x00, 0x00, 0x00, 0x01] .ok, .line .cs .high .ok, .line .dc .low .ok, .line .cs .low .ok, .tx [0x2C] .ok,
        .line .cs .high .ok, .ret .setFullWindow .ok], true) := by decide

/-- V37: the extremes of the window parameters. -/
theorem test_window_extremes :
    columnParams { small with width := ⟨1, by decide⟩ } = [0x00, 0x00, 0x00, 0x00] ∧
      rowParams { small with height := ⟨256, by decide⟩ } = [0x00, 0x00, 0x00, 0xFF] := by decide

/-- V31. -/
theorem test_clear :
    look (fun t => (t.trace.drop 20, t.pixcnt)) (.clear 0x1234) (start (oks 29)) =
      some ([.line .dc .high .ok, .line .cs .low .ok, .tx [0x12, 0x34] .ok, .tx [0x12, 0x34] .ok, .tx [0x12, 0x34] .ok,
        .tx [0x12, 0x34] .ok, .tx [0x12, 0x34] .ok, .tx [0x12, 0x34] .ok, .line .cs .high .ok, .ret .clear .ok],
        6) := by decide

/-- V33, P5: the third pixel burst fails after one byte; two pixels are known to have landed. -/
theorem test_clear_fails :
    look (fun t => (t.trace.drop 20, t.pixcnt, t.frameMem)) (.clear 0x1234) (startReady (oks 24 ++ [bad 1, .ok])) =
      some ([.line .dc .high .ok, .line .cs .low .ok, .tx [0x12, 0x34] .ok, .tx [0x12, 0x34] .ok,
        .tx [0x12, 0x34] (.fail 1 Cause.any), .line .cs .high .ok, .ret .clear (.err .spi Cause.any)], 2,
        [(0, 0x12), (1, 0x34), (2, 0x12), (3, 0x34)]) := rfl

/-- V40. -/
theorem test_setBacklight :
    look (fun t => (t.trace, t.bl)) (.setBacklight 0x8000) (start []) =
      some ([.blset 0x8000, .ret .setBacklight .ok], 0x8000) := by decide

/-- R131's example. -/
theorem test_tCommand :
    look (fun t => (t.trace, t.tix)) (.tCommand 0x36 [0x48]) (inside .replay (oks 8)) =
      some ([.line .dc .low .ok, .line .cs .low .ok, .tx [0x36] .ok, .line .cs .high .ok, .line .dc .high .ok,
        .line .cs .low .ok, .tx [0x48] .ok, .line .cs .high .ok], 1) := by decide

/-- V22: the parameter burst fails. -/
theorem test_tCommand_fails :
    look (fun t => (t.trace.drop 6, t.tix, t.busy)) (.tCommand 0xA1 [0x01, 0x02])
        (inside .replay (oks 6 ++ [bad 1, .ok])) =
      some ([.tx [0x01, 0x02] (.fail 1 Cause.any), .line .cs .high .ok, .ret .initializePanel (.err .spi Cause.any)], 0, false) :=
  rfl

/-- R132's example, and V24. -/
theorem test_tDelay :
    look (fun t => t.trace) (.tDelay 120) (inside .replay []) = some [.wait 120] ∧
      look (fun t => t.trace) (.tDelay 0) (inside .replay []) = some [.wait 0] := by decide

/-- R151 on `SMALL`: the column end is 2. -/
theorem test_caset :
    look (fun t => (t.trace.drop 4, t.activity)) .caset (inside (.window .column) (oks 8)) =
      some ([.line .dc .high .ok, .line .cs .low .ok, .tx [0x00, 0x00, 0x00, 0x02] .ok, .line .cs .high .ok],
        .window .row) := by decide

/-- R152 on `SMALL`: the row end is 1. -/
theorem test_paset :
    look (fun t => (t.trace.drop 4, t.activity)) .paset (inside (.clearing .row) (oks 8)) =
      some ([.line .dc .high .ok, .line .cs .low .ok, .tx [0x00, 0x00, 0x00, 0x01] .ok, .line .cs .high .ok],
        .clearing .memory) := by decide

/-- R153. -/
theorem test_ramwr :
    look (fun t => (t.trace, t.dc, t.cs)) .ramwr (inside (.window .memory) (oks 4)) =
      some ([.line .dc .low .ok, .line .cs .low .ok, .tx [0x2C] .ok, .line .cs .high .ok], .low, .high) := by decide

/-- V56: a reserved request is taken and nothing else happens. -/
theorem test_reserved_request :
    after (step ((start []).presenting [0xFF])) =
      some { start [] with env := { requests := [], answers := [], drawn := 0, refusals := 1 } } := by decide

/-- P2: three pixels after a full window land at (0,0), (1,0), (2,0). -/
theorem test_host_pixels :
    ((look (fun t => t) .setFullWindow (startReady (oks 24))).bind
        (look (fun t => t.frameMem) (.sendData [0xF8, 0x00, 0x07, 0xE0, 0x00, 0x1F]))) =
      some [(0, 0xF8), (1, 0x00), (2, 0x07), (3, 0xE0), (4, 0x00), (5, 0x1F)] := by decide

/-- U14: bytes sent in a frame that found CS low leave nothing known of FRAME. -/
theorem test_cs_low_forgets :
    look (fun t => (t.cs, t.frameMem)) (.sendData [0x11]) { knowing 3 0x55 (oks 4) with cs := .low } =
      some (.high, []) := by decide

/-- R6, V39. -/
theorem test_config_refused :
    Config.build 257 1 [] 0x2A 0x2B 0x2C 16 = .error .widthOutOfRange ∧
      Config.build 1 0 [] 0x2A 0x2B 0x2C 16 = .error .heightOutOfRange ∧
      Config.build 1 1 [] 0x2A 0x2B 0x2C 0 = .error .dutyWidthZero ∧
      Config.build 1 1 [0x02] 0x2A 0x2B 0x2C 16 = .error (.illFormedTable (.reservedTag 0x02)) := by decide

/-! ## Witnesses: the hypotheses of each obligation can be met, clause by clause -/

/-- A request of `bytes` at the port of an idle machine meets the invariant, whatever the answers. -/
theorem presenting_inv (answers : List Answer) (bytes : List Byte) : StateInv ((start answers).presenting bytes) :=
  ⟨rfl, fun _ _ h => (nomatch h), rfl, Nat.zero_le _, Nat.zero_le _, Nat.two_pow_pos _,
    ⟨fun h => (nomatch h), fun h => absurd rfl h⟩, fun _ h => (nomatch h), fun h => (nomatch h)⟩

/-- An entry of the table about to run meets the invariant. -/
theorem replaying_inv (answers : List Answer) : StateInv (inside .replay answers) :=
  ⟨rfl, fun _ _ h => (nomatch h), rfl, Nat.zero_le _, Nat.zero_le _, Nat.two_pow_pos _,
    ⟨fun _ h => (nomatch h), fun _ => rfl⟩, fun _ h => (nomatch h), fun h => (nomatch h)⟩

theorem witness_StepKeepsInvariant :
    StateInv ((start (oks 4)).presenting [0x01, 0x2C]) ∧
      (∃ t, step ((start (oks 4)).presenting [0x01, 0x2C]) = .next t) ∧
      StateInv (inside .replay (oks 8)) ∧ ∃ t, step (inside .replay (oks 8)) = .next t :=
  ⟨presenting_inv _ _, ⟨_, rfl⟩, replaying_inv _, ⟨_, rfl⟩⟩

/-- Both alternatives: a request that runs, and one cut short (R75). -/
theorem witness_StepAlwaysGoesOn :
    (StateInv ((start (oks 3)).presenting [0x03]) ∧ ∃ t, step ((start (oks 3)).presenting [0x03]) = .next t) ∧
      StateInv ((start []).presenting [0x01]) ∧
      step ((start []).presenting [0x01]) = .refused .notAWholeRequest :=
  ⟨⟨presenting_inv _ _, ⟨_, rfl⟩⟩, presenting_inv _ _, rfl⟩

theorem witness_EveryStepIsWellFramed : ∃ t, step ((start (oks 4)).presenting [0x01, 0x2C]) = .next t := ⟨_, rfl⟩

theorem witness_ChipSelectHighBetweenOperations :
    ((start (oks 4)).presenting [0x01, 0x2C]).inflight = false ∧ CsInv ((start (oks 4)).presenting [0x01, 0x2C]) ∧
      ∃ t, step ((start (oks 4)).presenting [0x01, 0x2C]) = .next t :=
  ⟨rfl, fun _ _ => rfl, ⟨_, rfl⟩⟩

/-- `ok`; `fail`, both ways; another line. -/
theorem witness_LineWriteOutcome :
    (start (oks 1)).answerAt 0 = .ok ∧ (start [bad 0]).answerAt 0 = .fail 0 false Cause.any ∧
      (start [.fail 0 true Cause.any]).answerAt 0 = .fail 0 true Cause.any ∧ Line.dc ≠ Line.cs := by
  and_intros <;> first | rfl | decide

/-- `ok`; `fail` with `k` at 0, at the length and beyond it. -/
theorem witness_BurstSendsPrefix :
    (start (oks 1)).answerAt 0 = .ok ∧ (start [bad 0]).answerAt 0 = .fail 0 false Cause.any ∧
      (start [bad 2]).answerAt 0 = .fail 2 false Cause.any ∧ 2 ≤ [0x01, (0x02 : Byte)].length ∧
      (start [bad 9]).answerAt 0 = .fail 9 false Cause.any ∧ ¬ 9 ≤ [0x01, (0x02 : Byte)].length := by
  and_intros <;> first | rfl | decide

/-- A completed RAMWR with a byte of FRAME known, and no span open. -/
theorem witness_SendCommandRunsItsFrame :
    (knowing 3 0x55 (oks 4)).inflight = false ∧ (knowing 3 0x55 (oks 4)).cs = .high ∧
      look (fun t => (t.status, Memory.read t.frameMem 3)) (.sendCommand 0x2C) (knowing 3 0x55 (oks 4)) =
        some (.ok, some 0x55) ∧
      isWindowCommand small 0x2C = true := by decide

/-- Not streaming; and streaming right after the full window, with a byte known just past the bytes sent: of two, and
of four that fail after two. -/
theorem witness_SendDataRunsItsFrame :
    (start (oks 4)).inflight = false ∧ (start (oks 4)).stream = false ∧ (start (oks 4)).cs = .high ∧
      look (fun t => Memory.read t.frameMem 2) (.sendData [0x11, 0x22])
        { knowing 2 0x55 (oks 4) with stream := true, seen := .origin } = some (some 0x55) ∧
      (wireBytes (frameRun .high [0x11, 0x22] (start (oks 4)).answerAt).1).length = 2 ∧
      look (fun t => Memory.read t.frameMem 2) (.sendData [0x11, 0x22, 0x33, 0x44])
        { knowing 2 0x55 [.ok, .ok, bad 2, .ok] with stream := true, seen := .origin } = some (some 0x55) ∧
      (wireBytes (frameRun .high [0x11, 0x22, 0x33, 0x44] (start [.ok, .ok, bad 2, .ok]).answerAt).1).length = 2 := by
  decide

theorem witness_SendOperationsSucceed : AnswersOk (start (oks 4)) 4 := by decide

/-- A release answered `ok`; no CS write issued; a burst; success; failure. -/
theorem witness_CallerMayRelyOnFrame :
    (∃ t, exec (.sendCommand 0x2A) (start (oks 4)) = .next t) ∧ (∃ t, exec (.sendData []) (start [bad 0]) = .next t) ∧
      look (fun t => (decide (.line .cs .high .ok ∈ t.trace), decide (.tx [0x2A] .ok ∈ t.trace), t.status))
        (.sendCommand 0x2A) (start (oks 4)) = some (true, true, .ok) ∧
      look (fun t => (t.trace, t.status)) (.sendData []) (start [bad 0]) =
        some ([.line .dc .high (.fail Cause.any), .ret .sendData (.err .gpio Cause.any)], .err .gpio Cause.any) :=
  ⟨⟨_, rfl⟩, ⟨_, rfl⟩, by decide, rfl⟩

theorem witness_ResetPulsesTheLine : AnswersOk (start (oks 3)) 3 := by decide

/-- The first, the second, the third write fails. -/
theorem witness_ResetStopsAtFailedWrite :
    (start [bad 0]).answerAt 0 = .fail 0 false Cause.any ∧
      (AnswersOk (start [.ok, bad 0]) 1 ∧ (start [.ok, bad 0]).answerAt 1 = .fail 0 false Cause.any) ∧
      AnswersOk (start [.ok, .ok, bad 0]) 2 ∧ (start [.ok, .ok, bad 0]).answerAt 2 = .fail 0 false Cause.any := by
  and_intros <;> first | rfl | decide

theorem witness_InitializeReplaysTable :
    AnswersOk (start (oks 16)) (8 * commandCount (start (oks 16)).cfg.initTable) ∧
      commandCount (start (oks 16)).cfg.initTable = 2 := by decide

/-- The data frame of the second Command entry fails. -/
theorem witness_InitializeStopsAtFirstError :
    (∃ t, exec .initializePanel (start (oks 14 ++ [bad 0, .ok])) = .next t) ∧
      look (fun t => (t.status, t.tix)) .initializePanel (start (oks 14 ++ [bad 0, .ok])) =
        some (.err .spi Cause.any, 2) :=
  ⟨⟨_, rfl⟩, rfl⟩

/-- A table of both kinds of entry; and the empty table. -/
theorem witness_InitializeCounts :
    AnswersOk (start (oks 16)) (8 * commandCount (start (oks 16)).cfg.initTable) ∧
      AnswersOk (State.construct { small with initTable := [] }) (8 * commandCount []) ∧
      (State.construct { small with initTable := [] }).cfg.initTable = [] :=
  ⟨by decide, fun _ h => absurd h (Nat.not_lt_zero _), rfl⟩

/-- Both frames succeed; the second fails; a known byte of FRAME that is kept. -/
theorem witness_TableCommandIsTwoFrames :
    (framesRun [(.low, [0xA1]), (.high, [0x01])] (inside .replay (oks 8)).answerAt).2 = .ok ∧
      (framesRun [(.low, [0xA1]), (.high, [0x01])] (inside .replay (oks 6 ++ [bad 0, .ok])).answerAt).2 =
        .err .spi Cause.any ∧
      look (fun t => Memory.read t.frameMem 3) (.tCommand 0x2A [0x01]) (knowing 3 0x55 (oks 8)) = some (some 0x55) :=
  by and_intros <;> rfl

theorem witness_TableCommandSendsTwoFrames : AnswersOk (inside .replay (oks 8)) 8 := by decide

/-- Success inside SET_FULL_WINDOW and inside CLEAR; an error; a known byte of FRAME that is kept. -/
theorem witness_CasetIsColumnStep :
    (framesRun [(.low, [0x2A]), (.high, [0, 0, 0, 0x02])] (inside (.window .column) (oks 8)).answerAt).2 = .ok ∧
      (inside (.window .column) (oks 8)).activity = .window .column ∧
      (inside (.clearing .column) (oks 8)).activity = .clearing .column ∧
      ((inside (.window .column) (oks 8)).cs = .high ∧ small.opcodesDistinct = true) ∧
      (framesRun [(.low, [0x2A]), (.high, [0, 0, 0, 0x02])] (inside (.window .column) (bad 0 :: oks 3)).answerAt).2 =
        .err .gpio Cause.any ∧
      look (fun t => Memory.read t.frameMem 3) .caset (knowing 3 0x55 (oks 8)) = some (some 0x55) := by
  and_intros <;> rfl

theorem witness_PasetIsRowStep :
    (framesRun [(.low, [0x2B]), (.high, [0, 0, 0, 0x01])] (inside (.window .row) (oks 8)).answerAt).2 = .ok ∧
      (inside (.window .row) (oks 8)).activity = .window .row ∧
      (inside (.clearing .row) (oks 8)).activity = .clearing .row ∧
      ((inside (.window .row) (oks 8)).cs = .high ∧ small.opcodesDistinct = true) ∧
      (framesRun [(.low, [0x2B]), (.high, [0, 0, 0, 0x01])] (inside (.window .row) (bad 0 :: oks 3)).answerAt).2 =
        .err .gpio Cause.any ∧
      look (fun t => Memory.read t.frameMem 3) .paset (knowing 3 0x55 (oks 8)) = some (some 0x55) := by
  and_intros <;> rfl

theorem witness_RamwrIsMemoryWriteStep :
    (frameRun .low [0x2C] (inside (.window .memory) (oks 4)).answerAt).2 = .ok ∧
      (inside (.window .memory) (oks 4)).activity = .window .memory ∧ (inside (.window .memory) (oks 4)).cs = .high ∧
      (inside (.clearing .memory) (oks 4)).activity = .clearing .memory ∧
      (frameRun .low [0x2C] (inside (.window .memory) (bad 0 :: oks 3)).answerAt).2 = .err .gpio Cause.any ∧
      look (fun t => Memory.read t.frameMem 3) .ramwr (knowing 3 0x55 (oks 4)) = some (some 0x55) := by
  and_intros <;> rfl

theorem witness_WindowCommandsSendTheirFrames :
    AnswersOk (inside (.window .column) (oks 8)) 8 ∧ AnswersOk (inside (.window .memory) (oks 4)) 4 := by decide

theorem witness_SetFullWindowIsFiveFrames :
    AnswersOk (start (oks 20)) 20 ∧ (knowing 3 0x55 (oks 20)).cs = .high ∧ small.opcodesDistinct = true ∧
      look (fun t => (t.status, Memory.read t.frameMem 3)) .setFullWindow (knowing 3 0x55 (oks 20)) =
        some (.ok, some 0x55) := by decide

/-- On `SMALL`; a byte known past the frame memory is kept. -/
theorem witness_ClearStreamsEveryPixel :
    AnswersOk (start (oks 29)) (23 + pixelCount small) ∧ frameBytes small ≤ 12 ∧
      look (fun t => Memory.read t.frameMem 12) (.clear 0x1234) (knowing 12 0x55 (oks 29)) = some (some 0x55) := by
  decide

/-- (1) a window frame; (2) the span's DC write; (3) its CS-low write, the release answered `ok`; (4) the first and
the last pixel burst; (5) the release. -/
theorem witness_ClearFailurePaths :
    (framesRun (windowFrames small) (start (oks 3 ++ [bad 0])).answerAt).2 = .err .gpio Cause.any ∧
      (AnswersOk (start (oks 20 ++ [bad 0])) 20 ∧ (start (oks 20 ++ [bad 0])).answerAt 20 = bad 0) ∧
      (AnswersOk (start (oks 21 ++ [bad 0, .ok])) 21 ∧ (start (oks 21 ++ [bad 0, .ok])).answerAt 21 = bad 0 ∧
        (start (oks 21 ++ [bad 0, .ok])).answerAt 22 = .ok) ∧
      (0 < pixelCount small ∧ AnswersOk (start (oks 22 ++ [bad 0, .ok])) 22 ∧
        (start (oks 22 ++ [bad 0, .ok])).answerAt 22 = bad 0) ∧
      (5 < pixelCount small ∧ AnswersOk (start (oks 27 ++ [bad 2, .ok])) 27 ∧
        (start (oks 27 ++ [bad 2, .ok])).answerAt 27 = bad 2 ∧ (start (oks 27 ++ [bad 2, .ok])).answerAt 28 = .ok) ∧
      AnswersOk (start (oks 28 ++ [bad 0])) 28 ∧ (start (oks 28 ++ [bad 0])).answerAt 28 = bad 0 := by
  and_intros <;> first | rfl | decide

theorem witness_ClearCounts : AnswersOk (start (oks 29)) (23 + pixelCount small) := by decide

/-- The smallest and the largest duty. -/
theorem witness_SetBacklightForwardsDuty : 0 < 2 ^ small.dutyW.val ∧ 0xFFFF < 2 ^ small.dutyW.val := by decide

theorem witness_OverwideDutyRefused : ¬ 0x10000 < 2 ^ small.dutyW.val := by decide

/-- Each clause: a field that changes. -/
theorem witness_OnlyNamedWritersWrite :
    look (fun t => decide (t.bl ≠ (start []).bl)) (.setBacklight 1) (start []) = some true ∧
      look (fun t => decide (t.rst ≠ (start []).rst)) .reset (start (oks 3)) = some true ∧
      look (fun t => decide (t.tix ≠ (start []).tix)) .initializePanel (start (oks 16)) = some true ∧
      look (fun t => decide (t.pixcnt ≠ (start []).pixcnt)) (.clear 0) (start (oks 29)) = some true ∧
      look (fun t => decide (t.dc ≠ (start []).dc)) (.sendData []) (start (oks 4)) = some true ∧
      look (fun t => (Memory.read t.frameMem 0, Memory.read (startReady []).frameMem 0)) (.clear 0x1234)
        (startReady (oks 29)) = some (some 0x12, none) := by decide

theorem witness_StepNeverWritesConstants : ∃ t, step ((start (oks 3)).presenting [0x03]) = .next t := ⟨_, rfl⟩

theorem witness_FirstErrorIsReported :
    hostOpOf (.setBacklight 3) = some .setBacklight ∧ DutyFits (start []).cfg (.setBacklight 3) ∧
      (∃ t, exec (.setBacklight 3) (start []) = .next t) ∧ hostOpOf (.clear 0) = some .clear ∧
      DutyFits (start []).cfg (.clear 0) ∧ ∃ t, exec (.clear 0) (start (oks 25 ++ [bad 0, bad 0])) = .next t :=
  ⟨rfl, fun _ h => by cases h; decide, ⟨_, rfl⟩, rfl, fun _ h => (nomatch h), ⟨_, rfl⟩⟩

/-- A step; and, for the first clause, a state no run reaches. -/
theorem witness_DelayErrorNeverRaised :
    (∃ t, step ((start (oks 3)).presenting [0x03]) = .next t) ∧
      (after (step { start [] with status := .err .delay Cause.any })).map (fun t => t.status) = some (.err .delay Cause.any) :=
  ⟨⟨_, rfl⟩, rfl⟩

/-- Two states of one configuration and one run of answers, of different histories. -/
theorem witness_OperationsReadNoHistory :
    hostOpOf .reset = some .reset ∧ DutyFits small .reset ∧
      (∀ n, (start (oks 3)).answerAt n =
        { startReady (oks 3) with cs := .low, rst := .high, tix := 2, status := .err .gpio Cause.any }.answerAt n) ∧
      (∃ t, exec .reset (start (oks 3)) = .next t) ∧
      ∃ t, exec .reset { startReady (oks 3) with cs := .low, rst := .high, tix := 2, status := .err .gpio Cause.any } =
        .next t :=
  ⟨rfl, fun _ h => (nomatch h), fun _ => rfl, ⟨_, rfl⟩, ⟨_, rfl⟩⟩

/-- One cause under two names, in a RESET whose second write fails. -/
theorem witness_OperationsNeverInspectCauses (d : Cause) :
    hostOpOf .reset = some .reset ∧ DutyFits small .reset ∧ primitiveBound small .reset = 6 ∧
      (∀ n, n < 6 → (start (.ok :: .fail 0 false d :: oks 4)).answerAt n =
        renameAnswer (fun _ => d) ((start (.ok :: bad 0 :: oks 4)).answerAt n)) ∧
      (∃ t, exec .reset (start (.ok :: bad 0 :: oks 4)) = .next t) ∧
      ∃ t, exec .reset (start (.ok :: .fail 0 false d :: oks 4)) = .next t :=
  ⟨rfl, fun _ h => (nomatch h), rfl, fun n h => by rcases n with _ | _ | _ | _ | _ | _ | n <;> first | rfl | omega,
    ⟨_, rfl⟩, ⟨_, rfl⟩⟩

theorem witness_PrimitivesAreBounded :
    hostOpOf .initializePanel = some .initializePanel ∧ DutyFits small .initializePanel ∧
      ∃ t, exec .initializePanel (start (oks 16)) = .next t :=
  ⟨rfl, fun _ h => (nomatch h), ⟨_, rfl⟩⟩

theorem witness_ControllerConditionFollowsResults :
    (∃ t, exec .reset (start (oks 3)) = .next t) ∧ (∃ t, exec .initializePanel (start (oks 16)) = .next t) ∧
      (∃ t, exec (.sendData []) (start [bad 0]) = .next t) ∧ ∃ t, exec (.setBacklight 1) (start []) = .next t :=
  ⟨⟨_, rfl⟩, ⟨_, rfl⟩, ⟨_, rfl⟩, ⟨_, rfl⟩⟩

/-- The host operations; INITIALIZE of a table without commands, of one that succeeds and of one that fails at its
second command; a window part that succeeds and one that fails; the entries and the window commands. -/
theorem witness_StreamFollowsCommandFrames :
    ((∃ t, exec (.sendCommand 0x2C) (start (oks 4)) = .next t) ∧ (∃ t, exec (.sendData []) (start (oks 4)) = .next t) ∧
      (∃ t, exec .reset (start [bad 0]) = .next t) ∧ ∃ t, exec (.setBacklight 1) (start []) = .next t) ∧
    (commandCount [] = 0 ∧ commandCount [.delay 5] = 0 ∧
      (∃ t, exec .initializePanel (State.construct { small with initTable := [.delay 5] }) = .next t)) ∧
    ((∃ t, exec .initializePanel (start (oks 16)) = .next t) ∧
      look (fun t => t.status) .initializePanel (start (oks 16)) = some .ok ∧
      small.initTable = [.command 0xA1 [0x01, 0x02], .delay 5] ++ .command 0xB2 [] :: []) ∧
    ((∃ t, exec .initializePanel (start (oks 14 ++ [bad 0, .ok])) = .next t) ∧
      look (fun t => (t.status, t.tix)) .initializePanel (start (oks 14 ++ [bad 0, .ok])) = some (.err .spi Cause.any, 2)) ∧
    ((∃ t, exec .setFullWindow (start (oks 20)) = .next t) ∧ small.opcodesDistinct = true ∧
      look (fun t => t.status) .setFullWindow (start (oks 20)) = some .ok) ∧
    ((∃ t, exec (.clear 0) (start (oks 20 ++ [bad 0])) = .next t) ∧
      (framesRun (windowFrames small) (start (oks 20 ++ [bad 0])).answerAt).2 = .ok ∧
      ∃ t, exec (.clear 0) (start (bad 0 :: oks 20)) = .next t) ∧
    (∃ t, exec (.tCommand 0x2C []) (inside .replay (oks 8)) = .next t) ∧
    (∃ t, exec (.tDelay 0) (inside .replay []) = .next t) ∧
    (∃ t, exec .caset (inside (.window .column) (oks 8)) = .next t) ∧
    (∃ t, exec .paset (inside (.window .row) (oks 8)) = .next t) ∧
    ∃ t, exec .ramwr (inside (.window .memory) (oks 4)) = .next t :=
  ⟨⟨⟨_, rfl⟩, ⟨_, rfl⟩, ⟨_, rfl⟩, ⟨_, rfl⟩⟩, ⟨rfl, rfl, ⟨_, rfl⟩⟩, ⟨⟨_, rfl⟩, by decide, rfl⟩, ⟨⟨_, rfl⟩, rfl⟩,
    ⟨⟨_, rfl⟩, by decide, by decide⟩, ⟨⟨_, rfl⟩, by decide, ⟨_, rfl⟩⟩, ⟨_, rfl⟩, ⟨_, rfl⟩, ⟨_, rfl⟩, ⟨_, rfl⟩, ⟨_, rfl⟩⟩

/-- Not streaming, a command frame of OP_RAMWR about to run; and streaming after one, a RESET about to run. -/
theorem witness_StreamIsReadFromTheTrace :
    (StreamInv ((start (oks 4)).presenting [0x01, 0x2C]) ∧
      ∃ t, step ((start (oks 4)).presenting [0x01, 0x2C]) = .next t) ∧
      StreamInv ({ start (oks 3) with stream := true, log := (frameEvents .low [0x2C]).reverse }.presenting [0x03]) ∧
      ∃ t, step ({ start (oks 3) with stream := true, log := (frameEvents .low [0x2C]).reverse }.presenting [0x03]) =
        .next t :=
  ⟨⟨rfl, ⟨_, rfl⟩⟩, rfl, ⟨_, rfl⟩⟩

/-- The first and the last pixel of the panel. -/
theorem witness_ClearFillsTheWindow :
    AnswersOk (startReady (oks 29)) (23 + pixelCount small) ∧ (startReady (oks 29)).ctl = .ready ∧
      (startReady (oks 29)).cs = .high ∧ 0 < small.width.val ∧ 2 < small.width.val ∧ 0 < small.height.val ∧
      1 < small.height.val := by decide

/-- Three whole pixels; a whole frame. -/
theorem witness_HostPixelsLandRowMajor :
    AnswersOk (startReady (oks 24)) 24 ∧ (startReady (oks 24)).ctl = .ready ∧ (startReady (oks 24)).cs = .high ∧
      small.opcodesDistinct = true ∧ (List.replicate 6 (0 : Byte)).length % 2 = 0 ∧
      (List.replicate 12 (0 : Byte)).length % 2 = 0 ∧ (List.replicate 12 (0 : Byte)).length ≤ frameBytes small := by
  decide

theorem witness_InitializeIsTheTableWalk : (start (oks 16)).env.requests = [] := rfl

theorem witness_WindowOperationsAreTheirSteps : (start (oks 29)).env.requests = [] := rfl

/-- The eight cases of a step. -/
theorem witness_StepRunsTheNextInstruction :
    (((start []).presenting [0x01, 0x2A]).busy = false ∧ decodeHost 16 [0x01, 0x2A] = .ok (.sendCommand 0x2A)) ∧
      ((start []).busy = false ∧ (start []).env.requests = []) ∧
      ((inside .replay []).busy = true ∧ small.initTable[0]? = some (.command 0xA1 [0x01, 0x02])) ∧
      tableLen small ≤ { inside .replay [] with tix := 3 }.tix ∧
      ((inside (.window .column) []).busy = true ∧ (inside (.clearing .column) []).busy = true) ∧
      ((inside (.window .row) []).busy = true ∧ (inside (.clearing .row) []).busy = true) ∧
      ((inside (.window .memory) []).busy = true ∧ (inside (.clearing .memory) []).busy = true) ∧
      (inside (.window .close) []).activity = .window .close := by decide

/-- The boundaries of the reserved codes, and the first duty too wide at 12 bits. -/
theorem witness_ReservedRequestsHaveNoEffect :
    ((0x00 : Byte) = 0 ∧ 8 ≤ (0x08 : Byte).toNat ∧ 8 ≤ (0xFF : Byte).toNat) ∧
      ([0x10, 0x00] : List Byte).length = dutyBytes 12 ∧ 2 ^ 12 ≤ beNat [0x10, 0x00] ∧
      ((start []).presenting [0x08]).busy = false ∧
      ((start []).presenting [0x08]).env.requests = [[0x08]] ∧
      decodeHost small.dutyW.val [0x08] = .error (.reservedCode 0x08) := by decide

/-- Each decode space at a boundary of its operands. -/
theorem witness_DecodeOfEncode :
    Instr.wf small (.sendData []) = true ∧ Instr.wf small (.setBacklight 0xFFFF) = true ∧
      Instr.wf small (.tDelay (2 ^ 32 - 1)) = true ∧ Instr.wf small (.tCommand 0xFF (List.replicate 255 0)) = true ∧
      Instr.wf small .paset = true ∧ small.opcodesDistinct = true := by
  refine ⟨by decide, by decide, by decide, ?_, by decide⟩
  rw [Instr.wf, List.length_replicate]
  decide

theorem witness_EncodeOfDecode :
    decode small .host [0x07, 0xFF, 0xFF] = .ok (.setBacklight 0xFFFF) ∧
      decode small .table [0x01, 0xFF, 0xFF, 0xFF, 0xFF] = .ok (.tDelay (2 ^ 32 - 1)) ∧
      decode small .wire [0x2C] = .ok .ramwr := by decide

theorem witness_TableImageRoundTrip :
    tableWf small tEx = true ∧ tableWf small [] = true ∧ decodeTable [0x01, 0x00, 0x00, 0x00, 0x78] = .ok [.delay 120] := by
  decide

/-- A configuration at the ends of the ranges is built. -/
theorem witness_ConfigurationOutsideRangeRefused :
    (∃ c, Config.build 1 256 [] 0x2A 0x2B 0x2C 1 = .ok c) ∧ ∃ c, Config.build 256 1 [] 0x2A 0x2B 0x2C 1 = .ok c :=
  ⟨⟨_, rfl⟩, ⟨_, rfl⟩⟩

theorem witness_StatusCoding :
    (start []).status = .ok ∧ { start [] with status := .err .spi Cause.any }.status = .err .spi Cause.any ∧
      { start [] with status := .err .gpio Cause.any }.status = .err .gpio Cause.any ∧
      { start [] with status := .err .delay Cause.any }.status = .err .delay Cause.any := by
  and_intros <;> rfl

end Sys2Proof.Tests
end

/-! Proofs of the statements of spec/00_scope.md: construction (R5, R42), the primitives `drive` and `burst`
(R9, R10), and the building of a configuration (R6). -/

namespace Sys2Proof.Machine

/-! ## Construction -/

/-- R42: the registers, the ghost state and the trace of a constructed sequencer do not depend on the configuration,
which is only held; the parameters after reset are those of R5. Settles O1, by computing the constructed state. -/
theorem constructionLeavesIdleSequencer : Obligations.ConstructionLeavesIdleSequencer := by
  unfold Obligations.ConstructionLeavesIdleSequencer
  refine ⟨fun c => ?_, ?_⟩ <;> and_intros <;> rfl

/-! ## A line write -/

/-- R9, D14: on `fail` the environment's bit says whether the line took the requested level. -/
@[simp] theorem levelAfter_fail (k : Nat) (landed : Bool) (c : Cause) (previous v : Level) :
    levelAfter (.fail k landed c) previous v = if landed then v else previous := by
  cases landed <;> rfl

/-- The three lines have registers of their own. -/
theorem level_setLevel_of_ne {l l' : Line} (h : l' ≠ l) (v : Level) (s : State) :
    (s.setLevel l v).level l' = s.level l' := by
  cases l <;> cases l' <;> simp [State.setLevel, State.level] at h ⊢

@[simp] theorem level_draw (s : State) (l : Line) : s.draw.level l = s.level l := by cases l <;> rfl

@[simp] theorem level_emit (s : State) (e : Event) (l : Line) : (s.emit e).level l = s.level l := by cases l <;> rfl

/-- R9: a line write leaves the other two lines alone. -/
theorem drive_level_of_ne {l l' : Line} (h : l' ≠ l) (v : Level) (s : State) :
    (drive l v s).2.level l' = s.level l' := by
  simp [drive, level_setLevel_of_ne h]

/-- Settles O7, by the result, the trace and the levels of a line write on each answer. -/
theorem lineWriteOutcome : Obligations.LineWriteOutcome := by
  unfold Obligations.LineWriteOutcome
  intro l v s
  refine ⟨fun hok => ?_, fun k b c hfail => ?_, fun l' hne => drive_level_of_ne hne v s⟩
  · simp [hok]
  · simp [hfail]

/-! ## A burst -/

@[simp] theorem wireBytes_tx_ok (bs : List Byte) : wireBytes [.tx bs .ok] = bs := List.append_nil bs

@[simp] theorem wireBytes_tx_fail (bs : List Byte) (k : Nat) (c : Cause) :
    wireBytes [.tx bs (.fail k c)] = bs.take k := List.append_nil _

/-- Settles O8: the first bytes, which went out, are as many as `min k bs.length`. -/
theorem burstSendsPrefix : Obligations.BurstSendsPrefix := by
  unfold Obligations.BurstSendsPrefix
  intro bs s
  refine ⟨fun hok => ?_, fun k b c hfail => ⟨min k bs.length, Nat.min_le_right _ _, Nat.min_eq_left, ?_⟩⟩
  · simp [hok]
  · simp [hfail]

end Sys2Proof.Machine

namespace Sys2Proof

/-! ## Building a configuration -/

/-- R6, R78: parameters in range and an image that decodes are taken as they are. -/
theorem Config.build_eq_ok {w h d : Nat} {image : List Byte} {t : List CommandEntry} (hw : 1 ≤ w ∧ w ≤ 256)
    (hh : 1 ≤ h ∧ h ≤ 256) (hd : 1 ≤ d) (ht : decodeTable image = .ok t) (o1 o2 o3 : Byte) :
    Config.build w h image o1 o2 o3 d = .ok ⟨⟨w, hw⟩, ⟨h, hh⟩, t, o1, o2, o3, ⟨d, hd⟩, ⟨100, rfl⟩⟩ := by
  simp [Config.build, hw, hh, hd, ht]

/-- R6, R78, R85: nothing else is built; each of the four refusals is ruled out in turn. -/
theorem Config.inRange_of_build {w h d : Nat} {image : List Byte} {o1 o2 o3 : Byte} {c : Config}
    (hb : Config.build w h image o1 o2 o3 d = .ok c) :
    (1 ≤ w ∧ w ≤ 256) ∧ (1 ≤ h ∧ h ≤ 256) ∧ 1 ≤ d ∧ ∃ t, decodeTable image = .ok t := by
  unfold Config.build at hb
  split at hb
  next hw =>
    split at hb
    next hh =>
      split at hb
      next hd =>
        split at hb
        next => contradiction
        next t ht => exact ⟨hw, hh, hd, t, ht⟩
      next => contradiction
    next => contradiction
  next => contradiction

/-- R5, R6: a configuration is determined by its parameters other than `RESET_HOLD_MS`, which has one value. -/
theorem Config.eq_mk (c : Config) :
    c = ⟨c.width, c.height, c.initTable, c.opCaset, c.opPaset, c.opRamwr, c.dutyW, ⟨100, rfl⟩⟩ := by
  obtain ⟨_, _, _, _, _, _, _, _, rfl⟩ := c
  rfl

/-- Settles O49: what is built holds the given values (`Config.build_eq_ok`), and nothing is built from others
(`Config.inRange_of_build`). -/
theorem configurationOutsideRangeRefused : Obligations.ConfigurationOutsideRangeRefused := by
  unfold Obligations.ConfigurationOutsideRangeRefused
  intro w h image o1 o2 o3 d c
  constructor
  · intro hb
    obtain ⟨hw, hh, hd, t, ht⟩ := Config.inRange_of_build hb
    rw [Config.build_eq_ok hw hh hd ht] at hb
    cases hb
    exact ⟨hw, hh, hd, ht, rfl, rfl, rfl, rfl, rfl, rfl⟩
  · rintro ⟨hw, hh, hd, ht, rfl, rfl, rfl, rfl, rfl, rfl⟩
    rw [Config.build_eq_ok hw hh hd ht, ← Config.eq_mk c]

end Sys2Proof

/-! Proofs of the statements of spec/10_state.md: who writes which register (R20 to R31), the ghost state `CTL` and
`STREAM` after every operation (R36 to R38), and the invariants after construction (R42). -/

namespace Sys2Proof.Machine

/-! ## What an instruction and a step can do -/

/-- R71: the state an instruction leaves, one case for each instruction; SET_BACKLIGHT has two, as a duty of too many
bits is refused (R84). -/
inductive ExecIs (s : State) : Instr → State → Prop
  | sendCommand (op : Byte) :
      ExecIs s (.sendCommand op) (endOp .sendCommand (commandFrame op { s.begin .idle with opc := op }))
  | sendData (bs : List Byte) :
      ExecIs s (.sendData bs) (endOp .sendData (dataFrame bs { s.begin .idle with data := bs }))
  | reset : ExecIs s .reset (endOp .reset (noteReset (resetBody (s.begin .idle))))
  | initializePanel : ExecIs s .initializePanel (endOp .initializePanel (initBody (s.begin .replay)))
  | setFullWindow : ExecIs s .setFullWindow (endOp .setFullWindow (windowBody (s.begin (.window .column))))
  | clear (color : Color) :
      ExecIs s (.clear color) (endOp .clear (clearBody color { s.begin (.clearing .column) with color := color }))
  | setBacklight (d : Nat) :
      ExecIs s (.setBacklight d) (endOp .setBacklight (.ok, setDuty d { s.begin .idle with duty := d }))
  | overwide (d : Nat) : ExecIs s (.setBacklight d) s.refuseRequest
  | tCommand (op : Byte) (ps : List Byte) : ExecIs s (.tCommand op ps) (entryDone (tCommandBody op ps s))
  | tDelay (n : Nat) : ExecIs s (.tDelay n) (entryDone (tDelayBody n s))
  | caset : ExecIs s .caset (wireDone (columnStep s))
  | paset : ExecIs s .paset (wireDone (rowStep s))
  | ramwr : ExecIs s .ramwr (wireDone (memoryStep s))

theorem exec_is {i : Instr} {s t : State} (h : exec i s = .next t) : ExecIs s i t := by
  cases i with
  | setBacklight d =>
    change execSetBacklight d s = .next t at h
    rw [execSetBacklight] at h
    split at h <;> cases h
    · exact .setBacklight d
    · exact .overwide d
  | sendCommand op => cases h; exact .sendCommand op
  | sendData bs => cases h; exact .sendData bs
  | reset => cases h; exact .reset
  | initializePanel => cases h; exact .initializePanel
  | setFullWindow => cases h; exact .setFullWindow
  | clear color => cases h; exact .clear color
  | tCommand op ps => cases h; exact .tCommand op ps
  | tDelay n => cases h; exact .tDelay n
  | caset => cases h; exact .caset
  | paset => cases h; exact .paset
  | ramwr => cases h; exact .ramwr

/-- What holds of a state holds of the next one, if the instructions, taking or refusing a request, and the end of an
operation keep it. -/
theorem step_keeps {P : State → Prop} (hexec : ∀ i s t, exec i s = .next t → P s → P t)
    (htake : ∀ s, P s → P s.takeRequest) (hrefuse : ∀ s, P s → P s.refuseRequest) (hfinish : ∀ s, P s → P (finish s))
    {s t : State} (h : step s = .next t) (hs : P s) : P t := by
  have his := step_is s
  generalize step s = o at h his
  cases his with
  | entry e busy inside at_ => exact hexec _ _ _ h hs
  | wire i busy which => exact hexec _ _ _ h hs
  | host i idle space => exact hexec _ _ _ h (htake s hs)
  | wait idle => cases h; exact hs
  | finish busy inside => cases h; exact hfinish s hs
  | reserved idle => cases h; exact hrefuse _ (htake s hs)
  | notWhole => cases h
  | noMove => cases h

/-- A step of the window body that is done either leaves the next stage to come or ends the operation (R150). -/
theorem wireDone_cases (p : Result × State) :
    (∃ a, wireDone p = { p.2 with activity := a }) ∨ wireDone p = endOp (windowOp p.2.activity) p := by
  obtain ⟨r, s⟩ := p
  cases r with
  | ok =>
    left
    simp only [wireDone, State.advanceStage]
    split
    · exact ⟨s.activity, rfl⟩
    · exact ⟨s.activity, rfl⟩
    · exact ⟨_, rfl⟩
    · exact ⟨_, rfl⟩
  | err kind c => exact .inr rfl

/-- An entry that is done either advances `TIX` or ends INITIALIZE (R133). -/
theorem entryDone_cases (p : Result × State) :
    entryDone p = p.2.nextEntry ∨ entryDone p = endOp .initializePanel p := by
  obtain ⟨r, s⟩ := p
  cases r with
  | ok => exact .inl rfl
  | err kind c => exact .inr rfl

theorem noteReset_resetBody_cfg (s : State) : (noteReset (resetBody s)).2.cfg = s.cfg := by
  obtain ⟨_, -, h, -⟩ := appends_resetBody.alone s
  exact h

theorem initBody_cfg (s : State) : (initBody s).2.cfg = s.cfg := by
  obtain ⟨_, -, h, -⟩ := appends_initBody.alone s
  exact h

/-! ## STREAM as the trace tells it (R38) -/

/-- The reading of STREAM depends on the trace, the constants and STREAM alone. -/
theorem StreamInv.congr {s t : State} (h : StreamInv s) (hlog : t.log = s.log) (hcfg : t.cfg = s.cfg)
    (hstream : t.stream = s.stream) : StreamInv t := by
  rw [StreamInv, trace_eq_of_log hlog, hcfg, hstream]
  exact h

/-- A procedure that leaves STREAM as its events say keeps the reading of the whole trace. -/
theorem StreamTold.keepsInv {f : State → Result × State} (hf : StreamTold f) {s : State} (hcfg : (f s).2.cfg = s.cfg)
    (h : StreamInv s) : StreamInv (f s).2 := by
  obtain ⟨es, htrace, hread⟩ := hf s
  rw [StreamInv, hcfg, htrace, streamRun_append, h, hread]

/-- The return of an operation is no part of a command frame. -/
theorem StreamInv.endOp {p : Result × State} (h : StreamInv p.2) (op : HostOp) : StreamInv (endOp op p) := by
  rw [StreamInv, endOp_cfg, endOp_trace, endOp_stream, streamRun_append, h]
  rfl

theorem StreamInv.wireDone {p : Result × State} (h : StreamInv p.2) : StreamInv (wireDone p) := by
  rcases wireDone_cases p with ⟨a, hd⟩ | hd <;> rw [hd]
  · exact h.congr rfl rfl rfl
  · exact h.endOp _

theorem StreamInv.entryDone {p : Result × State} (h : StreamInv p.2) : StreamInv (entryDone p) := by
  rcases entryDone_cases p with hd | hd <;> rw [hd]
  · exact h.congr rfl rfl rfl
  · exact h.endOp _

theorem streamQuiet_setDuty (d : Nat) : StreamQuiet fun s => (.ok, setDuty d s) :=
  fun s => ⟨_, setDuty_trace d s, rfl, fun _ _ => rfl⟩

/-- R38: an operation, accepted in `s` and run from `u`, keeps the reading of STREAM if its body leaves STREAM as its
events say. -/
theorem StreamTold.operation {f : State → Result × State} (hf : StreamTold f) (hcfg : ∀ s, (f s).2.cfg = s.cfg)
    (op : HostOp) {s u : State} (hs : StreamInv s) (hlog : u.log = s.log) (hu : u.cfg = s.cfg)
    (hstream : u.stream = s.stream) : StreamInv (endOp op (f u)) :=
  (hf.keepsInv (hcfg u) (hs.congr hlog hu hstream)).endOp op

/-- R38: every instruction keeps the reading of STREAM: what its body appends is read as STREAM is left, and its end
appends a return at most. -/
theorem exec_streamInv {i : Instr} {s t : State} (h : exec i s = .next t) (hs : StreamInv s) : StreamInv t := by
  cases exec_is h with
  | sendCommand op =>
    exact (streamTold_commandFrame op).operation (fun s => (wireOnly_commandFrame op s).cfg) _ hs rfl rfl rfl
  | sendData bs =>
    exact (streamQuiet_dataFrame bs).told.operation (fun s => (wireOnly_dataFrame bs s).cfg) _ hs rfl rfl rfl
  | reset => exact streamTold_noteReset.operation noteReset_resetBody_cfg _ hs rfl rfl rfl
  | initializePanel => exact streamTold_initBody.operation initBody_cfg _ hs rfl rfl rfl
  | setFullWindow => exact streamTold_windowBody.operation (fun s => (wireOnly_windowBody s).cfg) _ hs rfl rfl rfl
  | clear color =>
    exact (streamTold_clearBody color).operation (fun s => (wireOnly_clearBody color s).cfg) _ hs rfl rfl rfl
  | setBacklight d => exact (streamQuiet_setDuty d).told.operation (fun _ => rfl) _ hs rfl rfl rfl
  | overwide d => exact hs.congr rfl rfl rfl
  | tCommand op ps =>
    exact .entryDone ((streamTold_entryBody (.command op ps)).keepsInv (entryBody_keeps (.command op ps) s).cfg hs)
  | tDelay n => exact .entryDone ((streamQuiet_tDelayBody n).told.keepsInv rfl hs)
  | caset => exact .wireDone (streamTold_columnStep.keepsInv (wireOnly_columnStep s).cfg hs)
  | paset => exact .wireDone (streamTold_rowStep.keepsInv (wireOnly_rowStep s).cfg hs)
  | ramwr => exact .wireDone (streamTold_memoryStep.keepsInv (wireOnly_memoryStep s).cfg hs)

theorem finish_streamInv {s : State} (hs : StreamInv s) : StreamInv (finish s) := by
  rw [finish]
  cases s.activity with
  | idle => exact hs
  | replay => exact StreamInv.endOp (p := (.ok, s)) hs _
  | window st => exact StreamInv.endOp (p := (.ok, s)) hs _
  | clearing st =>
    exact .endOp ((streamQuiet_pixelSpan s.color).told.keepsInv (wireOnly_pixelSpan s.color s).cfg hs) _

/-- Settles O52: every instruction (`exec_streamInv`) and the end of an operation (`finish_streamInv`) keep the reading
of STREAM, and taking or refusing a request appends no event. -/
theorem streamIsReadFromTheTrace : Obligations.StreamIsReadFromTheTrace := by
  unfold Obligations.StreamIsReadFromTheTrace
  intro s t hs h
  exact step_keeps (fun _ _ _ => exec_streamInv) (fun _ hu => hu.congr rfl rfl rfl) (fun _ hu => hu.congr rfl rfl rfl)
    (fun _ => finish_streamInv) h hs

end Sys2Proof.Machine

namespace Sys2Proof.Machine

/-! ## Who writes which register (R21 to R26, R30, R31) -/

/-- The registers with named writers: BL, RST, TIX, PIXCNT, the bytes known in FRAME, and the wires CS and DC. -/
inductive Reg where
  | bl
  | rst
  | tix
  | pixcnt
  | frame
  | wires

/-- A register is as it was; of FRAME, that no byte has been placed (log 16). -/
def Reg.Unchanged (s t : State) : Reg → Prop
  | .bl => t.bl = s.bl
  | .rst => t.rst = s.rst
  | .tix => t.tix = s.tix
  | .pixcnt => t.pixcnt = s.pixcnt
  | .frame => NothingNewKnown s t
  | .wires => t.cs = s.cs ∧ t.dc = s.dc

/-- Of the constants and the registers, at most the listed registers have changed. -/
structure ChangesOnly (w : List Reg) (s t : State) : Prop where
  cfg : t.cfg = s.cfg
  regs : ∀ r : Reg, r ∈ w ∨ r.Unchanged s t

/-- The table of writers, one row for each instruction. -/
def writes : Instr → List Reg
  | .sendCommand _ => [.wires]
  | .sendData _ => [.wires, .frame]
  | .reset => [.rst]
  | .initializePanel => [.wires, .tix]
  | .setFullWindow => [.wires]
  | .clear _ => [.wires, .frame, .pixcnt]
  | .setBacklight _ => [.bl]
  | .tCommand _ _ => [.wires, .tix]
  | .tDelay _ => [.tix]
  | .caset => [.wires]
  | .paset => [.wires]
  | .ramwr => [.wires]

theorem Reg.Unchanged.trans {s t u : State} {r : Reg} (h : r.Unchanged s t) (h' : r.Unchanged t u) :
    r.Unchanged s u := by
  cases r with
  | frame => exact NothingNewKnown.trans h h'
  | wires => exact ⟨h'.1.trans h.1, h'.2.trans h.2⟩
  | bl => exact Eq.trans h' h
  | rst => exact Eq.trans h' h
  | tix => exact Eq.trans h' h
  | pixcnt => exact Eq.trans h' h

theorem ChangesOnly.trans {w : List Reg} {s t u : State} (h : ChangesOnly w s t) (h' : ChangesOnly w t u) :
    ChangesOnly w s u where
  cfg := h'.cfg.trans h.cfg
  regs r := by
    rcases h.regs r with hw | hr
    · exact .inl hw
    · exact (h'.regs r).imp_right hr.trans

theorem ChangesOnly.mono {v w : List Reg} {s t : State} (h : ChangesOnly v s t) (hvw : v ⊆ w) : ChangesOnly w s t :=
  ⟨h.cfg, fun r => (h.regs r).imp_left (@hvw r)⟩

/-- A state with the same constants and registers; an update that leaves them alone shows it by computing. -/
theorem ChangesOnly.ofEq {w : List Reg} {s t : State} (hcfg : t.cfg = s.cfg := by rfl) (hcs : t.cs = s.cs := by rfl)
    (hdc : t.dc = s.dc := by rfl) (hrst : t.rst = s.rst := by rfl) (hbl : t.bl = s.bl := by rfl)
    (htix : t.tix = s.tix := by rfl) (hpixcnt : t.pixcnt = s.pixcnt := by rfl)
    (hframe : t.frameMem = s.frameMem := by rfl) : ChangesOnly w s t where
  cfg := hcfg
  regs r := .inr <| by
    cases r with
    | bl => exact hbl
    | rst => exact hrst
    | tix => exact htix
    | pixcnt => exact hpixcnt
    | frame => exact fun a y h => hframe ▸ h
    | wires => exact ⟨hcs, hdc⟩

/-- R104 (e): the wire procedures write CS and DC; which of them count pixels or place bytes is said separately. -/
theorem ChangesOnly.ofWire {w : List Reg} {s t : State} (h : WireOnly s t) (hwires : Reg.wires ∈ w)
    (hpixcnt : Reg.pixcnt ∈ w ∨ t.pixcnt = s.pixcnt) (hframe : Reg.frame ∈ w ∨ NothingNewKnown s t) :
    ChangesOnly w s t where
  cfg := h.cfg
  regs r := by
    cases r with
    | bl => exact .inr h.bl
    | rst => exact .inr h.rst
    | tix => exact .inr h.tix
    | pixcnt => exact hpixcnt
    | frame => exact hframe
    | wires => exact .inl hwires

/-! ### The procedures -/

theorem changesOnly_endOp {w : List Reg} (op : HostOp) (p : Result × State) : ChangesOnly w p.2 (endOp op p) :=
  .ofEq

theorem changesOnly_wireDone {w : List Reg} (p : Result × State) : ChangesOnly w p.2 (wireDone p) := by
  rcases wireDone_cases p with ⟨a, h⟩ | h <;> rw [h]
  · exact .ofEq
  · exact changesOnly_endOp _ p

theorem changesOnly_nextEntry (s : State) : ChangesOnly [.tix] s s.nextEntry where
  cfg := rfl
  regs r := by
    cases r with
    | tix => exact .inl (List.mem_singleton_self _)
    | bl => exact .inr rfl
    | rst => exact .inr rfl
    | pixcnt => exact .inr rfl
    | frame => exact .inr (.refl s)
    | wires => exact .inr ⟨rfl, rfl⟩

theorem changesOnly_entryDone (p : Result × State) : ChangesOnly [.tix] p.2 (entryDone p) := by
  rcases entryDone_cases p with h | h <;> rw [h]
  · exact changesOnly_nextEntry p.2
  · exact changesOnly_endOp _ p

theorem changesOnly_noteSeen {v : List Reg} (w : WindowSeen) (p : Result × State) :
    ChangesOnly v p.2 (noteSeen w p).2 := by
  rcases p with ⟨_ | _, s⟩ <;> exact .ofEq

theorem changesOnly_commandFrame (op : Byte) (s : State) : ChangesOnly [.wires] s (commandFrame op s).2 :=
  .ofWire (wireOnly_commandFrame op s) (by simp) (.inr (commandFrame_pixcnt op s))
    (.inr (commandFrame_nothingNewKnown op s))

theorem changesOnly_dataFrame (bs : List Byte) (s : State) : ChangesOnly [.wires, .frame] s (dataFrame bs s).2 :=
  .ofWire (wireOnly_dataFrame bs s) (by simp) (.inr (dataFrame_pixcnt bs s)) (.inl (by simp))

/-- The parameters sent after a command place no byte. -/
theorem changesOnly_commandThenData (op : Byte) (bs : List Byte) (s : State) :
    ChangesOnly [.wires] s (attempt (commandFrame op) (dataFrame bs) s).2 :=
  .ofWire (wireOnly_attempt (wireOnly_commandFrame op) (wireOnly_dataFrame bs) s) (by simp)
    (.inr (commandThenData_pixcnt op bs s)) (.inr (commandThenData_nothingNewKnown op bs s))

theorem changesOnly_columnStep (s : State) : ChangesOnly [.wires] s (columnStep s).2 :=
  (changesOnly_commandThenData _ _ s).trans (changesOnly_noteSeen _ _)

theorem changesOnly_rowStep (s : State) : ChangesOnly [.wires] s (rowStep s).2 :=
  (changesOnly_commandThenData _ _ s).trans (changesOnly_noteSeen _ _)

theorem changesOnly_memoryStep (s : State) : ChangesOnly [.wires] s (memoryStep s).2 :=
  (changesOnly_commandFrame _ s).trans (changesOnly_noteSeen _ _)

theorem ChangesOnly.attempt {w : List Reg} {p k : State → Result × State} (hp : ∀ s, ChangesOnly w s (p s).2)
    (hk : ∀ s, ChangesOnly w s (k s).2) (s : State) : ChangesOnly w s (attempt p k s).2 :=
  attempt_rel (R := ChangesOnly w) ChangesOnly.trans hp hk s

theorem changesOnly_windowBody (s : State) : ChangesOnly [.wires] s (windowBody s).2 :=
  .attempt changesOnly_columnStep (.attempt changesOnly_rowStep changesOnly_memoryStep) s

theorem changesOnly_clearBody (color : Color) (s : State) :
    ChangesOnly [.wires, .frame, .pixcnt] s (clearBody color s).2 :=
  .ofWire (wireOnly_clearBody color s) (by simp) (.inl (by simp)) (.inl (by simp))

theorem changesOnly_setDuty (d : Nat) (s : State) : ChangesOnly [.bl] s (setDuty d s) where
  cfg := rfl
  regs r := by
    cases r with
    | bl => exact .inl (List.mem_singleton_self _)
    | rst => exact .inr rfl
    | tix => exact .inr rfl
    | pixcnt => exact .inr rfl
    | frame => exact .inr (.refl s)
    | wires => exact .inr ⟨rfl, rfl⟩

theorem changesOnly_drive_rst (v : Level) (s : State) : ChangesOnly [.rst] s (drive .rst v s).2 where
  cfg := rfl
  regs r := by
    cases r with
    | rst => exact .inl (List.mem_singleton_self _)
    | bl => exact .inr rfl
    | tix => exact .inr rfl
    | pixcnt => exact .inr rfl
    | frame => exact .inr (.refl s)
    | wires => exact .inr ⟨rfl, rfl⟩

theorem changesOnly_resetPhase (v : Level) : ∀ s, ChangesOnly [.rst] s (resetPhase v s).2 :=
  .attempt (changesOnly_drive_rst v) fun _ => .ofEq

theorem changesOnly_resetBody : ∀ s, ChangesOnly [.rst] s (resetBody s).2 :=
  .attempt (changesOnly_resetPhase .high) (.attempt (changesOnly_resetPhase .low) (changesOnly_resetPhase .high))

/-- RESET makes FRAME unknown, which places no byte. -/
theorem changesOnly_noteReset {w : List Reg} (p : Result × State) : ChangesOnly w p.2 (noteReset p).2 where
  cfg := rfl
  regs r := .inr <| by
    cases r with
    | bl => rfl
    | rst => rfl
    | tix => rfl
    | pixcnt => rfl
    | frame => exact fun a y h => nomatch h
    | wires => exact ⟨rfl, rfl⟩

theorem changesOnly_noteReset_resetBody (s : State) : ChangesOnly [.rst] s (noteReset (resetBody s)).2 :=
  (changesOnly_resetBody s).trans (changesOnly_noteReset _)

theorem changesOnly_tCommandBody (op : Byte) (ps : List Byte) (s : State) :
    ChangesOnly [.wires, .tix] s (tCommandBody op ps s).2 :=
  .trans (t := { s with opc := op, data := ps }) .ofEq ((changesOnly_commandThenData op ps _).mono (by simp))

theorem changesOnly_tDelayBody {w : List Reg} (n : Nat) (s : State) : ChangesOnly w s (tDelayBody n s).2 := .ofEq

theorem changesOnly_initBody (s : State) : ChangesOnly [.wires, .tix] s (initBody s).2 := by
  rw [initBody_eq]
  have h := replayList_keeps s.cfg.initTable { s with tix := 0 }
  refine ⟨h.cfg, fun r => ?_⟩
  cases r with
  | bl => exact .inr h.bl
  | rst => exact .inr h.rst
  | tix => exact .inl (by simp)
  | pixcnt => exact .inr h.pixcnt
  | frame => exact .inr h.nothingNewKnown
  | wires => exact .inl (by simp)

/-! ### The instructions -/

/-- An operation, accepted in `s` and run from `u`, writes what its body writes. -/
theorem ChangesOnly.operation {w : List Reg} {f : State → Result × State} (hf : ∀ s, ChangesOnly w s (f s).2)
    (op : HostOp) {s u : State} (hu : ChangesOnly w s u) : ChangesOnly w s (endOp op (f u)) :=
  (hu.trans (hf u)).trans (changesOnly_endOp op (f u))

/-- Each instruction writes what the table of writers gives it. -/
theorem exec_changesOnly {i : Instr} {s t : State} (h : exec i s = .next t) : ChangesOnly (writes i) s t := by
  cases exec_is h with
  | sendCommand op => exact .operation (changesOnly_commandFrame op) _ .ofEq
  | sendData bs => exact .operation (changesOnly_dataFrame bs) _ .ofEq
  | reset => exact .operation changesOnly_noteReset_resetBody _ .ofEq
  | initializePanel => exact .operation changesOnly_initBody _ .ofEq
  | setFullWindow => exact .operation changesOnly_windowBody _ .ofEq
  | clear color => exact .operation (changesOnly_clearBody color) _ .ofEq
  | setBacklight d => exact .operation (f := fun s => (.ok, setDuty d s)) (changesOnly_setDuty d) _ .ofEq
  | overwide d => exact .ofEq
  | tCommand op ps => exact (changesOnly_tCommandBody op ps s).trans ((changesOnly_entryDone _).mono (by simp))
  | tDelay n => exact (changesOnly_tDelayBody n s).trans (changesOnly_entryDone _)
  | caset => exact (changesOnly_columnStep s).trans (changesOnly_wireDone _)
  | paset => exact (changesOnly_rowStep s).trans (changesOnly_wireDone _)
  | ramwr => exact (changesOnly_memoryStep s).trans (changesOnly_wireDone _)

/-- A register that has changed is one the instruction writes. -/
theorem mem_writes_of_changed {i : Instr} {s t : State} (h : exec i s = .next t) {r : Reg} (hr : ¬ r.Unchanged s t) :
    r ∈ writes i := ((exec_changesOnly h).regs r).resolve_right hr

/-! Each column of the table of writers, read off its rows. -/

theorem bl_mem_writes {i : Instr} : Reg.bl ∈ writes i → ∃ d, i = .setBacklight d := by
  cases i <;> simp [writes]

theorem rst_mem_writes {i : Instr} : Reg.rst ∈ writes i → i = .reset := by
  cases i <;> simp [writes]

theorem tix_mem_writes {i : Instr} :
    Reg.tix ∈ writes i → i = .initializePanel ∨ (∃ op ps, i = .tCommand op ps) ∨ ∃ n, i = .tDelay n := by
  cases i <;> simp [writes]

theorem pixcnt_mem_writes {i : Instr} : Reg.pixcnt ∈ writes i → ∃ color, i = .clear color := by
  cases i <;> simp [writes]

theorem frame_mem_writes {i : Instr} :
    Reg.frame ∈ writes i → (∃ bs, i = .sendData bs) ∨ ∃ color, i = .clear color := by
  cases i <;> simp [writes]

theorem wires_mem_writes {i : Instr} :
    Reg.wires ∈ writes i → i ≠ .reset ∧ (∀ d, i ≠ .setBacklight d) ∧ ∀ n, i ≠ .tDelay n := by
  cases i <;> simp [writes]

/-- Settles O31: a register that has changed is listed in the instruction's row of the table of writers
(`exec_changesOnly`), and each clause is a column of the table. -/
theorem onlyNamedWritersWrite : Obligations.OnlyNamedWritersWrite := by
  unfold Obligations.OnlyNamedWritersWrite
  intro i s t h
  refine ⟨fun hbl => bl_mem_writes (mem_writes_of_changed h hbl),
    fun hrst => rst_mem_writes (mem_writes_of_changed h hrst),
    fun htix => tix_mem_writes (mem_writes_of_changed h htix),
    fun hpixcnt => pixcnt_mem_writes (mem_writes_of_changed h hpixcnt),
    fun hframe => frame_mem_writes (mem_writes_of_changed h hframe),
    fun hwires => wires_mem_writes (mem_writes_of_changed h fun hkept => ?_), (exec_changesOnly h).cfg⟩
  exact hwires.elim (· hkept.1) (· hkept.2)

/-! ## CTL after every operation (R37) -/

theorem resetBody_ctl (s : State) : (noteReset (resetBody s)).2.ctl = s.ctl := by
  have phase : ∀ (v : Level) (s : State), s.ctl = (resetPhase v s).2.ctl := fun v =>
    attempt_rel (R := fun a b => a.ctl = b.ctl) Eq.trans (fun _ => rfl) fun _ => rfl
  exact (attempt_rel (R := fun a b => a.ctl = b.ctl) Eq.trans (phase .high)
    (attempt_rel (R := fun a b => a.ctl = b.ctl) Eq.trans (phase .low) (phase .high)) s).symm

theorem initBody_ctl (s : State) : (initBody s).2.ctl = s.ctl := by
  rw [initBody_eq]
  exact (replayList_keeps _ _).ctl

/-- The end of an operation whose body leaves `CTL` alone. -/
theorem endOp_ctl_of_kept {op : HostOp} {p : Result × State} {c : Ctl} (h : p.2.ctl = c) :
    (endOp op p).ctl = ctlAfter op (endOp op p).status c := by
  rw [endOp_ctl, endOp_status, h]

/-- R37: no body writes `CTL`, so every host operation leaves what R37 gives for its result; a refused duty leaves
`CTL` as SET_BACKLIGHT does. -/
theorem exec_ctl {i : Instr} {op : HostOp} {s t : State} (hop : hostOpOf i = some op) (h : exec i s = .next t) :
    t.ctl = ctlAfter op t.status s.ctl := by
  cases exec_is h <;> cases hop
  case sendCommand b => exact endOp_ctl_of_kept (wireOnly_commandFrame b _).ctl
  case sendData bs => exact endOp_ctl_of_kept (wireOnly_dataFrame bs _).ctl
  case reset => exact endOp_ctl_of_kept (resetBody_ctl _)
  case initializePanel => exact endOp_ctl_of_kept (initBody_ctl _)
  case setFullWindow => exact endOp_ctl_of_kept (wireOnly_windowBody _).ctl
  case clear color => exact endOp_ctl_of_kept (wireOnly_clearBody color _).ctl
  case setBacklight d => exact endOp_ctl_of_kept rfl
  case overwide d => rfl

/-- R37: the operations made of frames keep `CTL`, or leave Unknown on an error. -/
theorem ctlAfter_frames {op : HostOp}
    (hop : op = .sendCommand ∨ op = .sendData ∨ op = .setFullWindow ∨ op = .clear) (r : Result) (c : Ctl) :
    ctlAfter op r c = if r = .ok then c else .unknown := by
  rcases hop with rfl | rfl | rfl | rfl <;> cases r <;> rfl

/-- Settles O37: `exec_ctl`, with the cases of `ctlAfter` for the operation. -/
theorem controllerConditionFollowsResults : Obligations.ControllerConditionFollowsResults := by
  unfold Obligations.ControllerConditionFollowsResults
  intro i s t h
  refine ⟨?_, ?_, ?_, ?_⟩
  · rintro rfl
    rw [exec_ctl rfl h]
    cases t.status <;> rfl
  · rintro rfl
    rw [exec_ctl rfl h]
    cases t.status <;> rfl
  · rintro (⟨op, rfl⟩ | ⟨bs, rfl⟩ | rfl | ⟨color, rfl⟩)
    all_goals
      rw [exec_ctl rfl h]
      exact ctlAfter_frames (by simp) _ _
  · rintro ⟨d, rfl⟩
    rw [exec_ctl rfl h]
    rfl

/-! ## After construction (R42) -/

/-- The registers are 0 and the trace is empty, so nothing is out of range and no event has spoilt a line; the bound of
BL is DUTY_W = 16. -/
theorem reset_stateInv : StateInv State.reset where
  memoryWf := rfl
  memoryInside _ _ h := nomatch h
  noSpan := rfl
  tixBound := Nat.zero_le _
  pixcntBound := Nat.zero_le _
  blFits := Nat.two_pow_pos _
  busyIff := by simp [State.reset, State.construct]
  noDelayError _ h := nomatch h
  originSound h := nomatch h

/-- Settles O2: the invariant by its fields, INV-CS and the reading of STREAM by the constructed values. -/
theorem constructionMeetsInvariant : Obligations.ConstructionMeetsInvariant :=
  ⟨reset_stateInv, fun _ _ => rfl, rfl⟩

end Sys2Proof.Machine

namespace Sys2Proof.Machine

/-! ## STREAM after every instruction (R38) -/

/-! ### Results of the frames -/

theorem framesRun_singleton (dc : Level) (bs : List Byte) (ans : Nat → Answer) :
    framesRun [(dc, bs)] ans = frameRun dc bs ans := by
  simp only [framesRun]
  cases h : (frameRun dc bs ans).2 with
  | ok => exact Prod.ext (List.append_nil _) h.symm
  | err kind c => exact Prod.ext rfl h.symm

theorem commandFrame_fst (op : Byte) (s : State) : (commandFrame op s).1 = (frameRun .low [op] s.answerAt).2 := by
  rw [(commandFrame_runs op s).result, framesRun_singleton]

@[simp] theorem noteSeen_fst (w : WindowSeen) (p : Result × State) : (noteSeen w p).1 = p.1 := by
  rcases p with ⟨_ | _, s⟩ <;> rfl

theorem memoryStep_fst (s : State) : (memoryStep s).1 = (frameRun .low [s.cfg.opRamwr] s.answerAt).2 := by
  rw [memoryStep, noteSeen_fst, commandFrame_fst]

/-- A procedure that leaves STREAM alone, by what `StreamQuiet` says of one state. -/
theorem StreamQuiet.stream {f : State → Result × State} (hf : StreamQuiet f) (s : State) :
    (f s).2.stream = s.stream := by
  obtain ⟨_, -, h, -⟩ := hf s
  exact h

/-- R12: `try p; k` succeeds only where both `p` and then `k` did. -/
theorem attempt_fst_ok {p k : State → Result × State} {s : State} (h : (attempt p k s).1 = .ok) :
    (p s).1 = .ok ∧ (k (p s).2).1 = .ok ∧ attempt p k s = k (p s).2 := by
  rcases attempt_cases p k s with ⟨hp, ha⟩ | ⟨⟨kind, c, hp⟩, ha⟩
  · exact ⟨hp, ha ▸ h, ha⟩
  · rw [ha, hp] at h
    cases h

/-- R12: `try` is associative. -/
theorem attempt_assoc (p q r : State → Result × State) (s : State) :
    attempt (attempt p q) r s = attempt p (attempt q r) s := by
  cases h : (p s).1 with
  | ok => rw [attempt_ok h, attempt, attempt_ok h]; rfl
  | err kind c =>
    have hq : attempt p q s = p s := attempt_err h
    rw [attempt_err h, attempt_err (hq ▸ h), hq]

/-! ### The window body (R150) -/

/-- RAMWR is the last command of the window body, so one that succeeds leaves the pixel mode on. -/
theorem windowBody_stream_of_ok {s : State} (h : (windowBody s).1 = .ok) : (windowBody s).2.stream = true := by
  obtain ⟨-, hrest, hw⟩ := attempt_fst_ok h
  obtain ⟨-, hmem, hr⟩ := attempt_fst_ok hrest
  rw [windowBody, hw, hr, memoryStep_stream, ← memoryStep_fst, hmem]
  rfl

/-- With three different opcode bytes, a window body that failed sent no completed command of OP_RAMWR last. -/
theorem windowBody_stream {s : State} (hd : s.cfg.opcodesDistinct = true) :
    (windowBody s).2.stream = true ↔ (windowBody s).1 = .ok := by
  refine ⟨fun hst => ?_, windowBody_stream_of_ok⟩
  obtain ⟨-, hcol, hrow⟩ := of_decide_eq_true hd
  rcases attempt_cases columnStep (attempt rowStep memoryStep) s with ⟨_, hw⟩ | ⟨_, hw⟩
  · rw [windowBody, hw] at hst ⊢
    rcases attempt_cases rowStep memoryStep (columnStep s).2 with ⟨_, hr⟩ | ⟨_, hr⟩
    · rw [hr, memoryStep_stream, ← memoryStep_fst] at hst
      rw [hr, of_decide_eq_true hst]
    · rw [hr, rowStep_stream, (wireOnly_columnStep s).cfg] at hst
      exact absurd (of_decide_eq_true hst).2 hrow
  · rw [windowBody, hw, columnStep_stream] at hst
    exact absurd (of_decide_eq_true hst).2 hcol

/-- R154: CLEAR's pixels leave STREAM as its window part left it. -/
theorem clearBody_stream (color : Color) (s : State) : (clearBody color s).2.stream = (windowBody s).2.stream := by
  rcases attempt_cases windowBody (pixelSpan color) s with ⟨_, h⟩ | ⟨_, h⟩ <;> rw [clearBody, h]
  exact (streamQuiet_pixelSpan color).stream _

/-! ### The replay (R130) -/

/-- The replay of entries up to some entry, and then of the others. -/
theorem replayList_append (es fs : List CommandEntry) (s : State) :
    replayList (es ++ fs) s = attempt (replayList es) (replayList fs) s := by
  induction es generalizing s with
  | nil => rfl
  | cons e es ih =>
    have htail : (fun u : State => replayList (es ++ fs) u.nextEntry) =
        attempt (fun u : State => replayList es u.nextEntry) (replayList fs) :=
      funext fun u => ih u.nextEntry
    rw [List.cons_append, replayList, htail, ← attempt_assoc]
    rfl

/-- Entries without a command leave STREAM alone. -/
theorem replayList_stream_of_no_command {es : List CommandEntry} (h : commandCount es = 0) (s : State) :
    (replayList es s).2.stream = s.stream := by
  induction es generalizing s with
  | nil => rfl
  | cons e es ih =>
    cases e with
    | command op ps => simp [commandCount] at h
    | delay n => exact ih (by simpa [commandCount] using h) _

/-- R136: an entry that completed has used eight answers if it is a command, none if it is a delay. -/
theorem entryBody_answerAt {e : CommandEntry} {s : State} (h : (entryBody e s).1 = .ok) (i : Nat) :
    (entryBody e s).2.answerAt i = s.answerAt (i + 8 * commandCount [e]) := by
  cases e with
  | command op ps => exact (tCommandBody_runs op ps s).rest h i
  | delay n => rfl

theorem commandCount_cons (e : CommandEntry) (es : List CommandEntry) :
    commandCount (e :: es) = commandCount [e] + commandCount es := by
  cases e <;> simp [commandCount, Nat.add_comm]

/-- R136: entries that completed have used eight answers for each command. -/
theorem replayList_answerAt {es : List CommandEntry} {s : State} (h : (replayList es s).1 = .ok) (i : Nat) :
    (replayList es s).2.answerAt i = s.answerAt (i + 8 * commandCount es) := by
  induction es generalizing s with
  | nil => rfl
  | cons e es ih =>
    obtain ⟨he, hes, hr⟩ := attempt_fst_ok h
    rw [replayList, hr, ih hes, answerAt_nextEntry, entryBody_answerAt he, commandCount_cons e es]
    congr 1
    omega

/-- R133: where the replay stops, `TIX` holds an entry of the list. -/
theorem replayList_tix_of_err {es : List CommandEntry} {s : State} {kind : ErrorKind} {c : Cause}
    (h : (replayList es s).1 = .err kind c) : (replayList es s).2.tix < s.tix + es.length := by
  induction es generalizing s with
  | nil => cases h
  | cons e es ih =>
    rw [replayList] at h ⊢
    rcases attempt_cases (entryBody e) (fun u => replayList es u.nextEntry) s with ⟨_, ha⟩ | ⟨_, ha⟩ <;>
      rw [ha] at h ⊢
    · have hlt := ih h
      rw [nextEntry_tix, entryBody_tix] at hlt
      rw [List.length_cons]
      omega
    · rw [entryBody_tix, List.length_cons]
      omega

/-- R131: an entry that completed has completed its command frame. -/
theorem tCommandBody_frame_ok {op : Byte} {ps : List Byte} {s : State} (h : (tCommandBody op ps s).1 = .ok) :
    (frameRun .low [op] s.answerAt).2 = .ok :=
  (commandFrame_fst op { s with opc := op, data := ps }).symm.trans (attempt_fst_ok h).1

/-- R130: a replay that completes leaves what its last command left. -/
theorem replayList_stream_of_ok {before after : List CommandEntry} {op : Byte} {ps : List Byte} {s : State}
    (h : (replayList (before ++ .command op ps :: after) s).1 = .ok) (hafter : commandCount after = 0) :
    (replayList (before ++ .command op ps :: after) s).2.stream = true ↔ op = s.cfg.opRamwr := by
  rw [replayList_append] at h ⊢
  obtain ⟨-, h, hb⟩ := attempt_fst_ok h
  obtain ⟨hentry, -, he⟩ := attempt_fst_ok h
  have hframe := tCommandBody_frame_ok hentry
  rw [hb, replayList, he, replayList_stream_of_no_command hafter, nextEntry_stream, entryBody,
    tCommandBody_stream, (replayList_keeps before s).cfg, hframe]
  simp

/-- R133: a replay that leaves `TIX` at a command, which it does not pass, leaves what this command's own frame left. -/
theorem replayList_stream_of_tix {before after : List CommandEntry} {op : Byte} {ps : List Byte} {s : State}
    (htix : (replayList (before ++ .command op ps :: after) s).2.tix = s.tix + before.length) :
    (replayList (before ++ .command op ps :: after) s).2.stream = true ↔
      (frameRun .low [op] fun i => s.answerAt (i + 8 * commandCount before)).2 = .ok ∧ op = s.cfg.opRamwr := by
  rw [replayList_append] at htix ⊢
  rcases attempt_cases (replayList before) (replayList (.command op ps :: after)) s with
    ⟨hb, ha⟩ | ⟨⟨kind', c', hb⟩, ha⟩
  · rw [ha] at htix ⊢
    have hanswers : (replayList before s).2.answerAt = fun i => s.answerAt (i + 8 * commandCount before) :=
      funext (replayList_answerAt hb)
    rw [← hanswers, ← (replayList_keeps before s).cfg]
    have hstart := (replayList_tix before s).2.2 hb
    generalize (replayList before s).2 = u at htix hstart ⊢
    rw [replayList] at htix ⊢
    rcases attempt_cases (entryBody (.command op ps)) (fun v => replayList after v.nextEntry) u with
      ⟨_, he⟩ | ⟨_, he⟩ <;> rw [he] at htix ⊢
    · have hpast := (replayList_tix after (entryBody (.command op ps) u).2.nextEntry).1
      rw [nextEntry_tix, entryBody_tix] at hpast
      omega
    · rw [entryBody, tCommandBody_stream, decide_eq_true_iff]
  · rw [ha] at htix
    have := replayList_tix_of_err hb
    omega

/-! ### The instructions -/

theorem execSendCommand_stream {op : Byte} {s t : State} (h : exec (.sendCommand op) s = .next t) :
    t.stream = true ↔ t.status = .ok ∧ op = s.cfg.opRamwr := by
  cases h
  rw [endOp_stream, endOp_status, commandFrame_stream, commandFrame_fst]
  exact decide_eq_true_iff

/-- INITIALIZE replays the table from entry 0. -/
theorem execInitializePanel_is {s t : State} (h : exec .initializePanel s = .next t) :
    t = endOp .initializePanel (replayList s.cfg.initTable { s.begin .replay with tix := 0 }) := by
  cases h
  rw [initBody_eq]
  rfl

/-- CLEAR leaves what its window part left, which is decided by the constants and the answers of the state before. -/
theorem execClear_stream {color : Color} {s t : State} (h : exec (.clear color) s = .next t) :
    ∃ u, u.cfg = s.cfg ∧ (windowBody u).1 = (framesRun (windowFrames s.cfg) s.answerAt).2 ∧
      t.stream = (windowBody u).2.stream := by
  cases h
  exact ⟨{ s.begin (.clearing .column) with color := color }, rfl, (windowBody_runs _).result,
    clearBody_stream color _⟩

/-- SET_FULL_WINDOW leaves what its window body left. -/
theorem execSetFullWindow_stream {s t : State} (h : exec .setFullWindow s = .next t) :
    ∃ u, u.cfg = s.cfg ∧ (windowBody u).1 = t.status ∧ t.stream = (windowBody u).2.stream := by
  cases h
  exact ⟨s.begin (.window .column), rfl, rfl, rfl⟩

theorem execSetBacklight_stream {d : Nat} {s t : State} (h : exec (.setBacklight d) s = .next t) :
    t.stream = s.stream := by
  cases exec_is h <;> rfl

/-- Settles O38: each instruction's STREAM is that of its body, whose last command frame decides it. -/
theorem streamFollowsCommandFrames : Obligations.StreamFollowsCommandFrames := by
  unfold Obligations.StreamFollowsCommandFrames
  intro s t
  refine ⟨fun op h => execSendCommand_stream h, fun bs h => ?sendData, fun h => ?reset, fun h => ?initializePanel,
    fun h => ?setFullWindow, fun color h => ?clear, fun d h => execSetBacklight_stream h, fun op ps h => ?tCommand,
    fun n h => ?tDelay, fun h => ?caset, fun h => ?paset, fun h => ?ramwr⟩
  case sendData =>
    cases h
    exact (streamQuiet_dataFrame bs).stream _
  case reset =>
    cases h
    rfl
  case initializePanel =>
    obtain rfl := execInitializePanel_is h
    refine ⟨fun hnone => replayList_stream_of_no_command hnone _, fun before op ps after hok htable hafter => ?_,
      fun _ _ before op ps after _ htable htix => ?_⟩
    · rw [endOp_status, htable] at hok
      rw [endOp_stream, htable]
      exact replayList_stream_of_ok hok hafter
    · rw [endOp_tix, htable] at htix
      rw [endOp_stream, htable]
      exact replayList_stream_of_tix (htix.trans (Nat.zero_add _).symm)
  case setFullWindow =>
    obtain ⟨u, hcfg, hresult, hstream⟩ := execSetFullWindow_stream h
    rw [hstream, ← hresult, ← hcfg]
    exact ⟨windowBody_stream_of_ok, windowBody_stream⟩
  case clear =>
    obtain ⟨u, hcfg, hresult, hstream⟩ := execClear_stream h
    rw [hstream, ← hresult, ← hcfg]
    exact ⟨windowBody_stream_of_ok, windowBody_stream⟩
  case tCommand =>
    cases h
    rw [entryDone_stream, tCommandBody_stream, decide_eq_true_iff]
  case tDelay =>
    cases h
    rfl
  case caset =>
    cases h
    rw [wireDone_stream, columnStep_stream, decide_eq_true_iff]
  case paset =>
    cases h
    rw [wireDone_stream, rowStep_stream, decide_eq_true_iff]
  case ramwr =>
    cases h
    rw [wireDone_stream, memoryStep_stream, decide_eq_true_iff]

end Sys2Proof.Machine

/-! Proofs of the statements of spec/20_memory.md: no step writes the table or another constant (R66), and what a CLEAR
of a Ready controller leaves in FRAME (R53, R158). -/

namespace Sys2Proof.Machine

/-! ## The constants (R66) -/

/-- The end of an operation leaves the constants alone, CLEAR's pixels included. -/
@[simp] theorem finish_cfg (s : State) : (finish s).cfg = s.cfg := by
  rw [finish]
  cases s.activity with
  | idle => rfl
  | replay => rfl
  | window st => rfl
  | clearing st => exact (wireOnly_pixelSpan s.color s).cfg

/-- Settles O32: every instruction keeps the constants, by the table of writers (`exec_changesOnly`), and so do taking
or refusing a request and the end of an operation. -/
theorem stepNeverWritesConstants : Obligations.StepNeverWritesConstants := by
  unfold Obligations.StepNeverWritesConstants
  intro s t h
  exact step_keeps (P := fun u => u.cfg = s.cfg) (fun _ _ _ hexec hu => (exec_changesOnly hexec).cfg.trans hu)
    (fun _ hu => hu) (fun _ hu => hu) (fun u hu => (finish_cfg u).trans hu) h rfl

/-! ## Where the bytes of a data span land (R53, R240) -/

/-- From `s` to `t` the bytes `bs` have gone out in the current span, and what else decides where they land is as it
was. -/
structure Sends (bs : List Byte) (s t : State) : Prop where
  sent : t.sent = bs.reverse ++ s.sent
  cfg : t.cfg = s.cfg
  stream : t.stream = s.stream
  seen : t.seen = s.seen
  frameMem : t.frameMem = s.frameMem

theorem Sends.trans {bs cs : List Byte} {s t u : State} (h : Sends bs s t) (h' : Sends cs t u) :
    Sends (bs ++ cs) s u where
  sent := by rw [h'.sent, h.sent, List.reverse_append, List.append_assoc]
  cfg := h'.cfg.trans h.cfg
  stream := h'.stream.trans h.stream
  seen := h'.seen.trans h.seen
  frameMem := h'.frameMem.trans h.frameMem

/-- R10: a burst answered `ok` sends all its bytes. -/
theorem burst_sends {s : State} (h : s.answerAt 0 = .ok) (bs : List Byte) : Sends bs s (burst bs s).2 where
  sent := by simp [h]
  cfg := rfl
  stream := rfl
  seen := rfl
  frameMem := rfl

/-- R31: counting a pixel sends nothing. -/
theorem nextPixel_sends (s : State) : Sends [] s s.nextPixel := ⟨rfl, rfl, rfl, rfl, rfl⟩

/-- R154, R83: what CLEAR sends for `n` pixels of a colour. -/
def pixelBytes (color : Color) (n : Nat) : List Byte := (List.replicate n (pix color)).flatten

theorem pixelBytes_succ (color : Color) (n : Nat) : pixelBytes color (n + 1) = pix color ++ pixelBytes color n := rfl

@[simp] theorem pixelBytes_length (color : Color) (n : Nat) : (pixelBytes color n).length = 2 * n := by
  simp [pixelBytes, pix, Nat.mul_comm]

/-- R154: the bursts of `n` pixels, each answered `ok`, send the colour's two bytes `n` times. -/
theorem pixels_sends (color : Color) {n : Nat} {s : State} (h : AnswersOk s n) :
    Sends (pixelBytes color n) s (pixels color n s).2 := by
  induction n generalizing s with
  | zero => exact ⟨rfl, rfl, rfl, rfl, rfl⟩
  | succ n ih =>
    have hburst : s.answerAt 0 = .ok := h 0 (Nat.succ_pos n)
    have hrest : AnswersOk (burst (pix color) s).2.nextPixel n := fun i hi => by
      rw [answerAt_nextPixel, burst_answerAt]
      exact h (i + 1) (Nat.succ_lt_succ hi)
    rw [pixelBytes_succ, pixels, attempt_ok (by rw [burst_fst, hburst]; rfl)]
    exact (burst_sends hburst (pix color)).trans ((nextPixel_sends _).trans (ih hrest))

/-- R154: CLEAR's stream sends a pixel for each one of the window. -/
theorem pixelStream_sends (color : Color) {s : State} (h : AnswersOk s (pixelCount s.cfg)) :
    Sends (pixelBytes color (pixelCount s.cfg)) s (pixelStream color s).2 :=
  have counted : Sends [] s { s with pixcnt := 0 } := ⟨rfl, rfl, rfl, rfl, rfl⟩
  counted.trans (pixels_sends color h)

/-- R100: after a DC write and a CS-low write answered `ok`, a tagged span sends what its body sends. -/
theorem tagged_sends {dc : Level} {body : State → Result × State} {bs : List Byte} {s : State} (hs : AnswersOk s 2)
    (hbody : ∀ u, u.cfg = s.cfg → (∀ i, u.answerAt i = s.answerAt (i + 2)) → Sends bs u (body u).2) :
    Sends bs { s with sent := [] } (tagged dc body s).2 := by
  have hdc : (drive .dc dc { s with sent := [] }).1 = .ok := congrArg lineResult (hs 0 (by decide))
  have hopened : (openSpan (drive .dc dc { s with sent := [] }).2).1 = .ok := by
    rw [openSpan_fst, drive_answerAt]
    exact congrArg lineResult (hs 1 (by decide))
  have hinside := hbody (openSpan (drive .dc dc { s with sent := [] }).2).2 rfl fun i => by
    rw [openSpan_answerAt, drive_answerAt]
    rfl
  rw [tagged, attempt_ok hdc, span_snd, spanInside, hopened]
  exact ⟨hinside.sent, hinside.cfg, hinside.stream, hinside.seen, hinside.frameMem⟩

@[simp] theorem Memory.stream_nil (m : Memory) : Memory.stream m [] = m := by
  simp [Memory.stream, Memory.store, Memory.forget, Memory.run]

/-- R53, R240: the bytes sent in a data span right after the full window of a Ready controller was set land from (0,0)
on, as far as the panel reaches. -/
theorem dataSpan_frameMem {body : State → Result × State} {bs : List Byte} {s : State} (hs : AnswersOk s 2)
    (hcs : s.cs = .high) (hstream : s.stream = true) (hseen : s.seen = .origin) (hlen : bs.length ≤ frameBytes s.cfg)
    (hbody : ∀ u, u.cfg = s.cfg → (∀ i, u.answerAt i = s.answerAt (i + 2)) → Sends bs u (body u).2) :
    (dataSpan body s).2.frameMem = Memory.stream s.frameMem bs := by
  obtain ⟨hsent, hcfg, hstream', hseen', hmem⟩ := tagged_sends (dc := .high) hs hbody
  change frameAfter s.cs (tagged .high body s).2 = _
  rw [frameAfter, hsent, hcfg, hstream', hseen', hmem]
  rcases eq_or_ne bs [] with rfl | hne
  · simp
  · simp [hne, hcs, hstream, hseen, hlen]

/-! ## The full window set (R150) -/

theorem noteSeen_seen_of_ok {w : WindowSeen} {p : Result × State} (h : p.1 = .ok) : (noteSeen w p).2.seen = w := by
  rw [noteSeen, h]

theorem columnStep_seen {s : State} (h : (columnStep s).1 = .ok) (hcs : s.cs = .high) :
    (columnStep s).2.seen = .columns := by
  rw [columnStep, noteSeen_fst] at h
  rw [columnStep, noteSeen_seen_of_ok h, if_pos hcs]

theorem rowStep_seen {s : State} (h : (rowStep s).1 = .ok) (hseen : s.seen = .columns) :
    (rowStep s).2.seen = .rows := by
  rw [rowStep, noteSeen_fst] at h
  rw [rowStep, noteSeen_seen_of_ok h, if_pos hseen]

theorem memoryStep_seen {s : State} (h : (memoryStep s).1 = .ok) (hseen : s.seen = .rows) (hctl : s.ctl = .ready) :
    (memoryStep s).2.seen = .origin := by
  rw [memoryStep, noteSeen_fst] at h
  rw [memoryStep, noteSeen_seen_of_ok h, if_pos ⟨hseen, hctl⟩]

/-- Log 17: a window body that succeeds, on a Ready controller with CS high, has shown the controller the whole
protocol. -/
theorem windowBody_seen_of_ok {s : State} (h : (windowBody s).1 = .ok) (hcs : s.cs = .high) (hctl : s.ctl = .ready) :
    (windowBody s).2.seen = .origin := by
  obtain ⟨hcol, hrest, hw⟩ := attempt_fst_ok h
  obtain ⟨hrow, hmem, hr⟩ := attempt_fst_ok hrest
  rw [windowBody, hw, hr]
  refine memoryStep_seen hmem (rowStep_seen hrow (columnStep_seen hcol hcs)) ?_
  rw [(wireOnly_rowStep _).ctl, (wireOnly_columnStep s).ctl, hctl]

/-- R150: the twenty requests of the window body. -/
theorem windowBody_fst_of_ok {s : State} (h : AnswersOk s 20) : (windowBody s).1 = .ok := by
  rw [(windowBody_runs s).result, framesRun_ok (windowFrames s.cfg) h]

/-! ## CLEAR (R154, R158) -/

/-- R55: the colour's high byte, then its low byte. -/
theorem pix_eq (c : Color) : pix c = [BitVec.ofNat 8 (c.toNat / 256), BitVec.ofNat 8 (c.toNat % 256)] := by
  have hi : c.extractLsb' 8 8 = BitVec.ofNat 8 (c.toNat / 256) := by
    simp [BitVec.extractLsb', Nat.shiftRight_eq_div_pow]
  have lo : c.extractLsb' 0 8 = BitVec.ofNat 8 (c.toNat % 256) :=
    BitVec.eq_of_toNat_eq (by simp [BitVec.extractLsb'])
  rw [pix, hi, lo]

/-- R55, R154: each pixel of the stream is the colour's high byte and its low byte. -/
theorem pixelBytes_getElem? (color : Color) {n i : Nat} (h : i < n) :
    (pixelBytes color n)[2 * i]? = some (BitVec.ofNat 8 (color.toNat / 256)) ∧
      (pixelBytes color n)[2 * i + 1]? = some (BitVec.ofNat 8 (color.toNat % 256)) := by
  induction n generalizing i with
  | zero => exact absurd h (Nat.not_lt_zero i)
  | succ n ih =>
    rw [pixelBytes_succ, pix_eq]
    cases i with
    | zero => exact ⟨rfl, rfl⟩
    | succ i => exact ih (Nat.lt_of_succ_lt_succ h)

/-- R158: CLEAR streams the colour's bytes over the whole window. -/
theorem clearBody_frameMem (color : Color) {s : State} (h : AnswersOk s (23 + pixelCount s.cfg)) (hctl : s.ctl = .ready)
    (hcs : s.cs = .high) :
    (clearBody color s).2.frameMem =
      Memory.stream (windowBody s).2.frameMem (pixelBytes color (pixelCount s.cfg)) := by
  have hok : (windowBody s).1 = .ok := windowBody_fst_of_ok fun i hi => h i (by omega)
  have hcfg : (windowBody s).2.cfg = s.cfg := (wireOnly_windowBody s).cfg
  have hrest : ∀ i, (windowBody s).2.answerAt i = s.answerAt (i + 20) := (windowBody_runs s).rest hok
  rw [clearBody, attempt_ok hok, pixelSpan]
  refine dataSpan_frameMem (fun i hi => ?opening) ((windowBody_runs s).high (by simp [windowFrames]) hok)
    (windowBody_stream_of_ok hok) (windowBody_seen_of_ok hok hcs hctl) ?room fun u hu hanswers => ?pixels
  case opening =>
    rw [hrest]
    exact h _ (by omega)
  case room => rw [pixelBytes_length, hcfg, frameBytes]
  case pixels =>
    rw [← hcfg, ← hu]
    refine pixelStream_sends color fun i hi => ?_
    rw [hu, hcfg] at hi
    rw [hanswers, hrest]
    exact h _ (by omega)

/-- R158: inside the window, FRAME reads as the stream of the colour's pixels. -/
theorem clearBody_read (color : Color) {s : State} (h : AnswersOk s (23 + pixelCount s.cfg)) (hctl : s.ctl = .ready)
    (hcs : s.cs = .high) {a : Nat} (ha : a < 2 * pixelCount s.cfg) :
    Memory.read (clearBody color s).2.frameMem a = (pixelBytes color (pixelCount s.cfg))[a]? := by
  rw [clearBody_frameMem color h hctl hcs, Memory.read_stream_even _ _ (by simp), pixelBytes_length, if_pos ha]

/-- R53: every column and row of the panel is one of its pixels. -/
theorem pixelIndex_lt {c : Config} {x y : Nat} (hx : x < c.width.val) (hy : y < c.height.val) :
    y * c.width.val + x < pixelCount c :=
  calc
    y * c.width.val + x < (y + 1) * c.width.val := by rw [Nat.succ_mul]; omega
    _ ≤ c.height.val * c.width.val := Nat.mul_le_mul_right _ hy
    _ = pixelCount c := Nat.mul_comm _ _

/-- Settles O39: FRAME reads as the stream of `WIDTH*HEIGHT` pixels of the colour (`clearBody_read`), and the pixel at a
column and row is one of them (`pixelIndex_lt`). -/
theorem clearFillsTheWindow : Obligations.ClearFillsTheWindow := by
  unfold Obligations.ClearFillsTheWindow
  intro color s h hctl hcs
  refine ⟨_, rfl, fun x y hx hy => ?_⟩
  have hi := pixelIndex_lt hx hy
  have hread {a : Nat} (ha : a < 2 * pixelCount s.cfg) :=
    clearBody_read color (s := { s.begin (.clearing .column) with color := color }) h hctl hcs ha
  rw [endOp_frameMem, pixelAddress, hread (by omega), hread (by omega)]
  exact pixelBytes_getElem? color hi

end Sys2Proof.Machine

/-! Proofs of the statements of spec/30_encoding.md: the round trips of the encodings (R73, R76, R77, R80 to R82), the
discipline of the wires (R79, R156), what stops a step and which instruction it runs (R73, R75, R130, R150), and
reserved requests (R84). -/

namespace Sys2Proof

/-! ## A host request by its byte 0 (R73) -/

/-- R73: the seven codes of the host operations are 1 to 7. -/
theorem decodeHost_reservedCode {w : Nat} {code : Byte} (rest : List Byte) (h : code = 0 ∨ 8 ≤ code.toNat) :
    decodeHost w (code :: rest) = .error (.reservedCode code) := by
  have hcode : code.toNat = 0 ∨ 8 ≤ code.toNat := h.imp_left fun h0 => by rw [h0]; rfl
  rw [decodeHost]
  split
  case h_8 => rfl
  all_goals omega

/-- R73: byte 0 of a request that is accepted is one of the seven codes. -/
theorem decodeHost_code_cases {w : Nat} {code : Byte} {rest : List Byte} {i : Instr}
    (h : decodeHost w (code :: rest) = .ok i) :
    code = 1 ∨ code = 2 ∨ code = 3 ∨ code = 4 ∨ code = 5 ∨ code = 6 ∨ code = 7 := by
  by_contra hnot
  rw [decodeHost_reservedCode rest (by bv_omega)] at h
  cases h

/-! ## The formats of the host requests (R73 to R75) -/

theorem decodeBare_eq_ok {i j : Instr} {bytes : List Byte} (h : decodeBare i bytes = .ok j) : j = i ∧ bytes = [] := by
  cases bytes with
  | nil => cases h; exact ⟨rfl, rfl⟩
  | cons b bs => cases h

theorem decodeOp8_eq_ok {bytes : List Byte} {i : Instr} (h : decodeOp8 bytes = .ok i) :
    ∃ op, i = .sendCommand op ∧ bytes = [op] := by
  rw [decodeOp8.eq_def] at h
  split at h
  · cases h; exact ⟨_, rfl, rfl⟩
  · cases h

/-- R74: `byte1*256 + byte2` of `pix(c)` is `c`. -/
theorem decodeC16_pix (c : Color) : decodeC16 (pix c) = .ok (.clear c) := by
  have h : c.extractLsb' 8 8 ++ c.extractLsb' 0 8 = c := by
    change c.extractLsb' (0 + 8) 8 ++ c.extractLsb' 0 8 = c
    rw [BitVec.extractLsb'_append_extractLsb'_eq_extractLsb' rfl, BitVec.extractLsb'_eq_self]
  rw [pix, decodeC16, h]

theorem pix_append (hi lo : Byte) : pix (hi ++ lo) = [hi, lo] := by
  rw [pix, BitVec.extractLsb'_append_eq_left, BitVec.extractLsb'_append_eq_right]

theorem decodeC16_eq_ok {bytes : List Byte} {i : Instr} (h : decodeC16 bytes = .ok i) :
    ∃ color, i = .clear color ∧ bytes = pix color := by
  rw [decodeC16.eq_def] at h
  split at h
  · cases h; exact ⟨_, rfl, (pix_append _ _).symm⟩
  · cases h

/-- R73, R76: a 32-bit number is its four bytes. -/
theorem beNat_beBytes_four {n : Nat} (h : n < 2 ^ 32) : beNat (beBytes 4 n) = n :=
  beNat_beBytes 4 n h

theorem beNat_four_lt (b3 b2 b1 b0 : Byte) : beNat [b3, b2, b1, b0] < 2 ^ 32 := by
  simpa using beNat_lt [b3, b2, b1, b0]

/-- R75: a list of up to 2^32 - 1 bytes, after its count. -/
theorem decodeVar_count {bytes : List Byte} (h : bytes.length < 2 ^ 32) :
    decodeVar (beBytes 4 bytes.length ++ bytes) = .ok (.sendData bytes) :=
  if_pos (beNat_beBytes_four h).symm

theorem decodeVar_eq_ok {bytes : List Byte} {i : Instr} (h : decodeVar bytes = .ok i) :
    ∃ payload, i = .sendData payload ∧ payload.length < 2 ^ 32 ∧ bytes = beBytes 4 payload.length ++ payload := by
  rw [decodeVar.eq_def] at h
  split at h
  next l3 l2 l1 l0 payload =>
    split at h
    next hcount =>
      cases h
      refine ⟨payload, rfl, hcount ▸ beNat_four_lt l3 l2 l1 l0, ?_⟩
      have hbytes : beBytes 4 (beNat [l3, l2, l1, l0]) = [l3, l2, l1, l0] := beBytes_beNat [l3, l2, l1, l0]
      rw [hcount, hbytes]
      rfl
    next => cases h
  next => cases h

/-- R73: `ceil(DUTY_W/8)` bytes have room for a duty. -/
theorem two_pow_le_dutyBytes (w : Nat) : 2 ^ w ≤ 256 ^ dutyBytes w :=
  calc
    2 ^ w ≤ 2 ^ (8 * dutyBytes w) := Nat.pow_le_pow_right (by decide) (by rw [dutyBytes]; omega)
    _ = 256 ^ dutyBytes w := Nat.pow_mul 2 8 _

theorem decodeDuty_beBytes {w d : Nat} (h : d < 2 ^ w) :
    decodeDuty w (beBytes (dutyBytes w) d) = .ok (.setBacklight d) := by
  have hd : beNat (beBytes (dutyBytes w) d) = d := beNat_beBytes _ d (h.trans_le (two_pow_le_dutyBytes w))
  rw [decodeDuty, if_pos (beBytes_length _ d), hd, if_pos h]

/-- R84: an operand with a nonzero bit above `DUTY_W - 1`. -/
theorem decodeDuty_reserved {w : Nat} {bytes : List Byte} (hlen : bytes.length = dutyBytes w)
    (hwide : 2 ^ w ≤ beNat bytes) : decodeDuty w bytes = .error .reservedDuty := by
  rw [decodeDuty, if_pos hlen, if_neg (Nat.not_lt.2 hwide)]

theorem decodeDuty_eq_ok {w : Nat} {bytes : List Byte} {i : Instr} (h : decodeDuty w bytes = .ok i) :
    ∃ d, i = .setBacklight d ∧ d < 2 ^ w ∧ bytes = beBytes (dutyBytes w) d := by
  rw [decodeDuty] at h
  split at h
  next hlen =>
    split at h
    next hlt =>
      cases h
      exact ⟨_, rfl, hlt, by rw [← hlen, beBytes_beNat]⟩
    next => cases h
  next => cases h

/-! ## Host requests, both ways -/

theorem decodeHost_encode {c : Config} {i : Instr} (hwf : i.wf c = true) (hi : i.space = .host) :
    decodeHost c.dutyW.val (encode c i) = .ok i := by
  cases i with
  | sendCommand op => rfl
  | sendData bytes => exact decodeVar_count (of_decide_eq_true hwf)
  | reset => rfl
  | initializePanel => rfl
  | setFullWindow => rfl
  | clear color => exact decodeC16_pix color
  | setBacklight d => exact decodeDuty_beBytes (of_decide_eq_true hwf)
  | _ => cases hi

theorem encode_of_decodeHost {c : Config} {bytes : List Byte} {i : Instr} (h : decodeHost c.dutyW.val bytes = .ok i) :
    i.wf c = true ∧ encode c i = bytes := by
  cases bytes with
  | nil => cases h
  | cons code rest =>
    rcases decodeHost_code_cases h with rfl | rfl | rfl | rfl | rfl | rfl | rfl
    · obtain ⟨op, rfl, rfl⟩ := decodeOp8_eq_ok h
      exact ⟨rfl, rfl⟩
    · obtain ⟨payload, rfl, hlt, rfl⟩ := decodeVar_eq_ok h
      exact ⟨decide_eq_true hlt, rfl⟩
    · obtain ⟨rfl, rfl⟩ := decodeBare_eq_ok h
      exact ⟨rfl, rfl⟩
    · obtain ⟨rfl, rfl⟩ := decodeBare_eq_ok h
      exact ⟨rfl, rfl⟩
    · obtain ⟨rfl, rfl⟩ := decodeBare_eq_ok h
      exact ⟨rfl, rfl⟩
    · obtain ⟨color, rfl, rfl⟩ := decodeC16_eq_ok h
      exact ⟨rfl, rfl⟩
    · obtain ⟨d, rfl, hlt, rfl⟩ := decodeDuty_eq_ok h
      exact ⟨decide_eq_true hlt, rfl⟩

/-! ## Table entries, both ways (R76) -/

/-- R76: an entry at the front of an image is read, and the rest of the image is left. -/
theorem decodeEntry_encode {c : Config} {e : CommandEntry} (hwf : e.toInstr.wf c = true) (rest : List Byte) :
    decodeEntry (encode c e.toInstr ++ rest) = .ok (e, rest) := by
  cases e with
  | command op ps =>
    have hlt : ps.length < 2 ^ 8 := of_decide_eq_true hwf
    have hn : (BitVec.ofNat 8 ps.length).toNat = ps.length := by simpa using Nat.mod_eq_of_lt hlt
    change decodeEntry (0x00 :: op :: BitVec.ofNat 8 ps.length :: (ps ++ rest)) = _
    simp [decodeEntry, hn]
  | delay n =>
    have hlt : n < 2 ^ 32 := of_decide_eq_true hwf
    exact congrArg (fun m => Except.ok (CommandEntry.delay m, rest)) (beNat_beBytes_four hlt)

/-- R76, R77: an entry that is read is the front of the image. -/
theorem encode_of_decodeEntry (c : Config) {image rest : List Byte} {e : CommandEntry}
    (h : decodeEntry image = .ok (e, rest)) : e.toInstr.wf c = true ∧ encode c e.toInstr ++ rest = image := by
  rw [decodeEntry.eq_def] at h
  split at h
  next => cases h
  next tag bytes =>
    split at h
    next htag =>
      obtain rfl : tag = 0x00 := BitVec.eq_of_toNat_eq htag
      split at h
      next op n ps =>
        split at h
        next hn =>
          cases h
          have hlen : (ps.take n.toNat).length = n.toNat := List.length_take_of_le hn
          refine ⟨decide_eq_true (hlen.trans_lt n.isLt), ?_⟩
          simp [CommandEntry.toInstr, encode, hn]
        next => cases h
      next => cases h
    next htag =>
      obtain rfl : tag = 0x01 := BitVec.eq_of_toNat_eq htag
      split at h
      next d3 d2 d1 d0 rest' =>
        cases h
        refine ⟨decide_eq_true (beNat_four_lt d3 d2 d1 d0), ?_⟩
        exact congrArg (0x01 :: · ++ rest) (beBytes_beNat [d3, d2, d1, d0])
      next => cases h
    next => cases h

/-! ## The table image, both ways (R77) -/

/-- One turn of the decoder: the entry at the front, then the rest of the image. -/
theorem decodeEntries_of_decodeEntry {fuel : Nat} {image rest : List Byte} {e : CommandEntry} {es : List CommandEntry}
    (he : decodeEntry image = .ok (e, rest)) (hes : decodeEntries fuel rest = .ok es) :
    decodeEntries (fuel + 1) image = .ok (e :: es) := by
  cases image with
  | nil => cases he
  | cons b bs =>
    rw [decodeEntries, he]
    simp only [hes]

/-- What a nonempty image decodes to comes from such a turn. -/
theorem decodeEntries_succ_eq_ok {fuel : Nat} {image : List Byte} {t : List CommandEntry} (hne : image ≠ [])
    (h : decodeEntries (fuel + 1) image = .ok t) :
    ∃ e rest es, decodeEntry image = .ok (e, rest) ∧ decodeEntries fuel rest = .ok es ∧ t = e :: es := by
  cases image with
  | nil => exact absurd rfl hne
  | cons b bs =>
    rw [decodeEntries] at h
    split at h
    next => cases h
    next e rest he =>
      split at h
      next => cases h
      next es hes =>
        cases h
        exact ⟨e, rest, es, he, hes, rfl⟩

theorem encode_length_pos (c : Config) (i : Instr) : 0 < (encode c i).length := by
  cases i <;> exact Nat.succ_pos _

theorem decodeEntries_encodeTable {c : Config} {t : List CommandEntry} (hwf : tableWf c t = true) {fuel : Nat}
    (hfuel : (encodeTable c t).length ≤ fuel) : decodeEntries fuel (encodeTable c t) = .ok t := by
  induction t generalizing fuel with
  | nil => cases fuel <;> rfl
  | cons e t ih =>
    obtain ⟨he, ht⟩ := Bool.and_eq_true_iff.1 hwf
    have hpos := encode_length_pos c e.toInstr
    change (encode c e.toInstr ++ encodeTable c t).length ≤ fuel at hfuel
    rw [List.length_append] at hfuel
    obtain ⟨fuel, rfl⟩ : ∃ m, fuel = m + 1 := ⟨fuel - 1, by omega⟩
    exact decodeEntries_of_decodeEntry (decodeEntry_encode he _) (ih ht (by omega))

theorem encodeTable_of_decodeEntries (c : Config) {fuel : Nat} {image : List Byte} {t : List CommandEntry}
    (h : decodeEntries fuel image = .ok t) : tableWf c t = true ∧ encodeTable c t = image := by
  induction fuel generalizing image t with
  | zero =>
    cases image <;> cases h
    exact ⟨rfl, rfl⟩
  | succ fuel ih =>
    rcases eq_or_ne image [] with rfl | hne
    · cases h
      exact ⟨rfl, rfl⟩
    · obtain ⟨e, rest, es, he, hes, rfl⟩ := decodeEntries_succ_eq_ok hne h
      obtain ⟨hwf, rfl⟩ := encode_of_decodeEntry c he
      obtain ⟨hwfs, rfl⟩ := ih hes
      exact ⟨Bool.and_eq_true_iff.2 ⟨hwf, hwfs⟩, rfl⟩

/-- Settles O47, by induction on the table (`decodeEntries_encodeTable`), and on the fuel that an image is read with
(`encodeTable_of_decodeEntries`). -/
theorem tableImageRoundTrip : Obligations.TableImageRoundTrip := by
  unfold Obligations.TableImageRoundTrip
  exact fun c => ⟨fun t hwf => decodeEntries_encodeTable hwf (Nat.le_refl _),
    fun image t h => encodeTable_of_decodeEntries c h⟩

/-! ## Instructions in the three decode spaces (R89) -/

theorem decode_table {c : Config} {bytes : List Byte} {e : CommandEntry} (h : decodeEntry bytes = .ok (e, [])) :
    decode c .table bytes = .ok e.toInstr := by
  rw [decode, h]

theorem decode_table_eq_ok {c : Config} {bytes : List Byte} {i : Instr} (h : decode c .table bytes = .ok i) :
    ∃ e, i = e.toInstr ∧ decodeEntry bytes = .ok (e, []) := by
  rw [decode] at h
  split at h
  next => cases h
  next e he =>
    cases h
    exact ⟨e, rfl, he⟩
  next => cases h

theorem space_toInstr (e : CommandEntry) : e.toInstr.space = .table := by
  cases e <;> rfl

/-- R72: the instructions of the table's decode space are the entries. -/
theorem exists_entry_of_space {i : Instr} (h : i.space = .table) : ∃ e : CommandEntry, i = e.toInstr := by
  cases i with
  | tCommand op ps => exact ⟨.command op ps, rfl⟩
  | tDelay n => exact ⟨.delay n, rfl⟩
  | _ => cases h

theorem decode_table_encode {c : Config} {i : Instr} (hwf : i.wf c = true) (hi : i.space = .table) :
    decode c .table (encode c i) = .ok i := by
  obtain ⟨e, rfl⟩ := exists_entry_of_space hi
  exact decode_table (List.append_nil (encode c e.toInstr) ▸ decodeEntry_encode hwf [])

/-- R80 to R82: the opcode bytes are tried in order, so one is read back if it differs from those before it. -/
theorem decode_wire_encode {c : Config} {i : Instr} (hdistinct : c.opcodesDistinct = true) (hi : i.space = .wire) :
    decode c .wire (encode c i) = .ok i := by
  obtain ⟨hcasetPaset, hcasetRamwr, hpasetRamwr⟩ := of_decide_eq_true hdistinct
  cases i with
  | caset => simp [decode, encode, decodeWire]
  | paset => simp [decode, encode, decodeWire, hcasetPaset.symm]
  | ramwr => simp [decode, encode, decodeWire, hcasetRamwr.symm, hpasetRamwr.symm]
  | _ => cases hi

theorem decodeWire_eq_ok {c : Config} {op : Byte} {i : Instr} (h : decodeWire c op = .ok i) :
    i.space = .wire ∧ i.wf c = true ∧ encode c i = [op] := by
  rw [decodeWire] at h
  split at h
  next hop => cases h; subst hop; exact ⟨rfl, rfl, rfl⟩
  next =>
    split at h
    next hop => cases h; subst hop; exact ⟨rfl, rfl, rfl⟩
    next =>
      split at h
      next hop => cases h; subst hop; exact ⟨rfl, rfl, rfl⟩
      next => cases h

theorem decode_wire_eq_ok {c : Config} {bytes : List Byte} {i : Instr} (h : decode c .wire bytes = .ok i) :
    ∃ op, bytes = [op] ∧ decodeWire c op = .ok i := by
  match bytes, h with
  | [op], h => exact ⟨op, rfl, h⟩
  | [], h => cases h
  | _ :: _ :: _, h => cases h

/-- Settles O45, in each decode space: host requests by their formats, entries as fronts of images, and the wire's
bytes by their difference. -/
theorem decodeOfEncode : Obligations.DecodeOfEncode := by
  unfold Obligations.DecodeOfEncode
  intro c i hwf hwire
  cases hspace : i.space with
  | host => exact decodeHost_encode hwf hspace
  | table => exact decode_table_encode hwf hspace
  | wire => exact decode_wire_encode (hwire hspace) hspace

/-- Settles O46: what each decode space accepts is the encoding of what it is decoded to (`encode_of_decodeHost`,
`encode_of_decodeEntry`, `decodeWire_eq_ok`). -/
theorem encodeOfDecode : Obligations.EncodeOfDecode := by
  unfold Obligations.EncodeOfDecode
  intro c sp bytes i h
  cases sp with
  | host => exact ⟨Machine.decodeHost_space h, encode_of_decodeHost h⟩
  | table =>
    obtain ⟨e, rfl, he⟩ := decode_table_eq_ok h
    obtain ⟨hwf, rfl⟩ := encode_of_decodeEntry c he
    exact ⟨space_toInstr e, hwf, (List.append_nil _).symm⟩
  | wire =>
    obtain ⟨op, rfl, hop⟩ := decode_wire_eq_ok h
    exact decodeWire_eq_ok hop

end Sys2Proof

namespace Sys2Proof.Machine

/-! ## The discipline of the wires (R40, R52, R79, R156) -/

theorem WellFramed.append {es fs : List Event} (h : WellFramed es) (h' : WellFramed fs) : WellFramed (es ++ fs) := by
  rw [WellFramed, wireRun_append, h]
  exact h'

/-- What has been appended to the trace from `s` to `t` is well framed. -/
def FramedBetween (s t : State) : Prop := ∃ es, t.trace = s.trace ++ es ∧ WellFramed es

theorem FramedBetween.ofLog {s t : State} (h : t.log = s.log) : FramedBetween s t :=
  ⟨[], by rw [trace_eq_of_log h, List.append_nil], rfl⟩

theorem FramedBetween.trans {s t u : State} (h : FramedBetween s t) (h' : FramedBetween t u) : FramedBetween s u := by
  obtain ⟨es, htrace, hes⟩ := h
  obtain ⟨fs, htrace', hfs⟩ := h'
  exact ⟨es ++ fs, by rw [htrace', htrace, List.append_assoc], hes.append hfs⟩

/-- A procedure that takes the wires from between two spans to between two spans. -/
theorem AppendsAlways.framed {n : Config → Nat} {f : State → Result × State}
    (hf : AppendsAlways (.between none) (.between none) n f) (s : State) : FramedBetween s (f s).2 := by
  obtain ⟨es, htrace, -, hwires, -⟩ := hf.alone s
  exact ⟨es, htrace, hwires⟩

/-- The return of an operation happens between two spans. -/
theorem framed_endOp (op : HostOp) (p : Result × State) : FramedBetween p.2 (endOp op p) :=
  ⟨[.ret op p.1], endOp_trace op p, rfl⟩

theorem framed_wireDone (p : Result × State) : FramedBetween p.2 (wireDone p) := by
  rcases wireDone_cases p with ⟨a, h⟩ | h <;> rw [h]
  · exact .ofLog rfl
  · exact framed_endOp _ p

theorem framed_entryDone (p : Result × State) : FramedBetween p.2 (entryDone p) := by
  rcases entryDone_cases p with h | h <;> rw [h]
  · exact .ofLog rfl
  · exact framed_endOp _ p

theorem framed_setDuty (d : Nat) (s : State) : FramedBetween s (setDuty d s) := ⟨[.blset d], setDuty_trace d s, rfl⟩

theorem framed_noteReset (p : Result × State) : FramedBetween p.2 (noteReset p).2 := .ofLog rfl

/-- An operation, accepted in `s` and run from `u`, appends what its body appends, and its return. -/
theorem FramedBetween.operation {f : State → Result × State} (hf : ∀ s, FramedBetween s (f s).2) (op : HostOp)
    {s u : State} (hlog : u.log = s.log) : FramedBetween s (endOp op (f u)) :=
  (FramedBetween.ofLog hlog).trans ((hf u).trans (framed_endOp op (f u)))

theorem exec_framed {i : Instr} {s t : State} (h : exec i s = .next t) : FramedBetween s t := by
  cases exec_is h with
  | sendCommand op => exact .operation (appends_commandFrame op).framed _ rfl
  | sendData bs => exact .operation (appends_dataFrame bs).framed _ rfl
  | reset =>
    exact .operation (f := fun u => noteReset (resetBody u))
      (fun u => (appends_resetBody.framed u).trans (framed_noteReset _)) _ rfl
  | initializePanel => exact .operation appends_initBody.framed _ rfl
  | setFullWindow => exact .operation appends_windowBody.framed _ rfl
  | clear color => exact .operation (appends_clearBody color).framed _ rfl
  | setBacklight d => exact .operation (f := fun u => (.ok, setDuty d u)) (framed_setDuty d) _ rfl
  | overwide d => exact .ofLog rfl
  | tCommand op ps => exact ((appends_tCommandBody op ps).framed s).trans (framed_entryDone _)
  | tDelay n => exact ((appends_tDelayBody n).framed s).trans (framed_entryDone _)
  | caset => exact (appends_columnStep.framed s).trans (framed_wireDone _)
  | paset => exact (appends_rowStep.framed s).trans (framed_wireDone _)
  | ramwr => exact (appends_memoryStep.framed s).trans (framed_wireDone _)

theorem finish_framed (s : State) : FramedBetween s (finish s) := by
  rw [finish]
  cases s.activity with
  | idle => exact .ofLog rfl
  | replay => exact framed_endOp _ (.ok, s)
  | window st => exact framed_endOp _ (.ok, s)
  | clearing st => exact ((appends_pixelSpan s.color).framed s).trans (framed_endOp _ _)

/-- Settles O5: what an instruction (`exec_framed`) or the end of an operation (`finish_framed`) appends is well framed,
and taking or refusing a request appends nothing. -/
theorem everyStepIsWellFramed : Obligations.EveryStepIsWellFramed := by
  unfold Obligations.EveryStepIsWellFramed
  intro s t h
  exact step_keeps (P := FramedBetween s) (fun _ _ _ hexec hu => hu.trans (exec_framed hexec))
    (fun _ hu => hu.trans (.ofLog rfl)) (fun _ hu => hu.trans (.ofLog rfl)) (fun u hu => hu.trans (finish_framed u)) h
    (.ofLog rfl)

/-! ## Every step goes on (R62, R75, R246) -/

/-- No instruction faults or is refused, in any state. -/
theorem exec_total (i : Instr) (s : State) : ∃ t, exec i s = .next t := by
  cases i with
  | setBacklight d =>
    change ∃ t, execSetBacklight d s = .next t
    rw [execSetBacklight]
    split
    · exact ⟨_, rfl⟩
    · exact ⟨_, rfl⟩
  | _ => exact ⟨_, rfl⟩

/-- Settles O4: instructions always go on (`exec_total`), and the invariant rules out a busy machine with nothing under
way, so of the cases of a step only that of no whole request is left. -/
theorem stepAlwaysGoesOn : Obligations.StepAlwaysGoesOn := by
  unfold Obligations.StepAlwaysGoesOn
  intro s hinv
  have his := step_is s
  generalize step s = o at his ⊢
  cases his with
  | entry e busy inside at_ => exact .inl (exec_total _ _)
  | wire i busy which => exact .inl (exec_total _ _)
  | host i idle space => exact .inl (exec_total _ _)
  | wait idle => exact .inl ⟨_, rfl⟩
  | finish busy inside => exact .inl ⟨_, rfl⟩
  | reserved idle => exact .inl ⟨_, rfl⟩
  | notWhole bytes rest idle presented why => exact .inr ⟨idle, bytes, rest, presented, why, rfl⟩
  | noMove busy inside => exact absurd inside (hinv.busyIff.1 busy)

/-! ## What a step fetches (R73, R130, R150) -/

theorem takeRequest_of_requests {s : State} {bytes : List Byte} {rest : List (List Byte)}
    (h : s.env.requests = bytes :: rest) : s.takeRequest = { s with env := { s.env with requests := rest } } := by
  rw [State.takeRequest, h, List.tail_cons]

theorem fetch_of_idle {s : State} (h : s.busy = false) : fetch s = fetchHost s := by
  simp [fetch, h]

theorem fetch_of_replay {s : State} (hbusy : s.busy = true) (ha : s.activity = .replay) : fetch s = fetchEntry s := by
  simp [fetch, hbusy, ha]

/-- Inside the window body, SET_FULL_WINDOW's or CLEAR's, its stage says what comes. -/
theorem fetch_of_stage {s : State} {st : WindowStage} (hbusy : s.busy = true)
    (ha : s.activity = .window st ∨ s.activity = .clearing st) : fetch s = fetchStage st s := by
  rcases ha with ha | ha <;> simp [fetch, hbusy, ha]

theorem step_of_run {s u : State} {i : Instr} (h : fetch s = .run i u) : step s = exec i u := by
  rw [step, h]

theorem step_of_wait {s : State} (h : fetch s = .wait) : step s = .next s := by
  rw [step, h]

theorem step_of_finish {s : State} (h : fetch s = .finish) : step s = .next (finish s) := by
  rw [step, h]

theorem step_of_reserved {s u : State} (h : fetch s = .reserved u) : step s = .next u.refuseRequest := by
  rw [step, h]

theorem fetchHost_of_decodes {s : State} {bytes : List Byte} {rest : List (List Byte)} {i : Instr}
    (hr : s.env.requests = bytes :: rest) (hd : decodeHost s.cfg.dutyW.val bytes = .ok i) :
    fetchHost s = .run i { s with env := { s.env with requests := rest } } := by
  simp [fetchHost, hr, hd, takeRequest_of_requests hr]

/-- R84: a reserved code or operand at the host port. -/
theorem fetchHost_of_reserved {s : State} {bytes : List Byte} {rest : List (List Byte)}
    (hr : s.env.requests = bytes :: rest)
    (hd : (∃ code, decodeHost s.cfg.dutyW.val bytes = .error (.reservedCode code)) ∨
      decodeHost s.cfg.dutyW.val bytes = .error .reservedDuty) :
    fetchHost s = .reserved { s with env := { s.env with requests := rest } } := by
  rcases hd with ⟨code, hd⟩ | hd <;> simp [fetchHost, hr, hd, takeRequest_of_requests hr]

theorem fetchEntry_of_get {s : State} {e : CommandEntry} (h : s.cfg.initTable[s.tix]? = some e) :
    fetchEntry s = .run e.toInstr s := by
  rw [fetchEntry, h]

theorem fetchEntry_of_end {s : State} (h : tableLen s.cfg ≤ s.tix) : fetchEntry s = .finish := by
  rw [fetchEntry, List.getElem?_eq_none h]

/-- R130, R150: an operation that only returns at its end returns Ok. -/
theorem finish_returns {s : State} {op : HostOp} (h : finish s = endOp op (.ok, s)) :
    (finish s).trace = s.trace ++ [.ret op .ok] ∧ (finish s).status = .ok ∧ (finish s).busy = false := by
  rw [h]
  exact ⟨endOp_trace op (.ok, s), rfl, rfl⟩

/-- Settles O43: in each of the eight situations `fetch` is known, and it says what the step runs. -/
theorem stepRunsTheNextInstruction : Obligations.StepRunsTheNextInstruction := by
  unfold Obligations.StepRunsTheNextInstruction
  refine ⟨fun s bytes rest i hidle hr hd => ?request, fun s hidle hr => ?nothing, fun s e hbusy ha he => ?entry,
    fun s hbusy ha hend => ?tableEnd, fun s hbusy ha => step_of_run (fetch_of_stage hbusy ha),
    fun s hbusy ha => step_of_run (fetch_of_stage hbusy ha), fun s hbusy ha => step_of_run (fetch_of_stage hbusy ha),
    fun s hbusy ha => ?windowEnd⟩
  case request => exact step_of_run ((fetch_of_idle hidle).trans (fetchHost_of_decodes hr hd))
  case nothing => exact step_of_wait ((fetch_of_idle hidle).trans (by rw [fetchHost, hr]))
  case entry => exact step_of_run ((fetch_of_replay hbusy ha).trans (fetchEntry_of_get he))
  case tableEnd =>
    exact ⟨_, step_of_finish ((fetch_of_replay hbusy ha).trans (fetchEntry_of_end hend)),
      finish_returns (by rw [finish, ha])⟩
  case windowEnd =>
    exact ⟨_, step_of_finish (fetch_of_stage hbusy (.inl ha)), finish_returns (by rw [finish, ha])⟩

/-! ## Reserved requests (R84) -/

/-- Settles O30: the instruction's own check of its operand refuses it. -/
theorem overwideDutyRefused : Obligations.OverwideDutyRefused := by
  unfold Obligations.OverwideDutyRefused
  intro d s hd
  exact if_neg hd

/-- Settles O44: reserved codes and operands are told apart by the decoder, and a step that fetches one refuses it. -/
theorem reservedRequestsHaveNoEffect : Obligations.ReservedRequestsHaveNoEffect := by
  unfold Obligations.ReservedRequestsHaveNoEffect
  refine ⟨fun w code rest hcode => decodeHost_reservedCode rest hcode,
    fun w operand hlen hwide => decodeDuty_reserved hlen hwide,
    fun s bytes rest hidle hr hd => ?_⟩
  exact step_of_reserved ((fetch_of_idle hidle).trans (fetchHost_of_reserved hr hd))

end Sys2Proof.Machine

/-! Proofs of the statements of spec/40_framing.md: what SEND_COMMAND and SEND_DATA do and leave alone (R101 to R103),
and what their caller may rely on (R104). -/

namespace Sys2Proof.Machine

/-! ## What a frame does beside the ghost state (R100, R103) -/

/-- What a frame run from `s` with DC at `v` has done in `p`, whatever is noted of it in the ghost state. -/
structure FrameDone (v : Level) (bs : List Byte) (s : State) (p : Result × State) : Prop extends WireOnly s p.2 where
  result : p.1 = (frameRun v bs s.answerAt).2
  trace : p.2.trace = s.trace ++ (frameRun v bs s.answerAt).1
  cs : p.2.cs = csAfterFrame s.cs s.answerAt
  dc : p.2.dc = levelAfter (s.answerAt 0) s.dc v
  pixcnt : p.2.pixcnt = s.pixcnt
  closed : s.inflight = false → p.2.inflight = false

theorem frame_done (v : Level) (bs : List Byte) (s : State) : FrameDone v bs s (frame v bs s) where
  toWireOnly := wireOnly_frame v bs s
  result := by rw [(frame_runs v bs s).result, framesRun_singleton]
  trace := by rw [(frame_runs v bs s).trace, framesRun_singleton]
  cs := frame_cs v bs s
  dc := frame_dc v bs s
  pixcnt := (frame_ghost v bs s).1
  closed := (frame_runs v bs s).closed

theorem commandFrame_done (op : Byte) (s : State) : FrameDone .low [op] s (commandFrame op s) :=
  have h := frame_done .low [op] s
  ⟨wireOnly_commandFrame op s, h.result, h.trace, h.cs, h.dc, h.pixcnt, h.closed⟩

theorem dataFrame_done (bs : List Byte) (s : State) : FrameDone .high bs s (dataFrame bs s) :=
  have h := frame_done .high bs s
  ⟨wireOnly_dataFrame bs s, h.result, h.trace, h.cs, h.dc, h.pixcnt, h.closed⟩

/-! ## An operation of one frame (R101, R102) -/

/-- From `s` to `t` the operation `op` has run one frame and returned its result. -/
structure RanFrame (op : HostOp) (v : Level) (bs : List Byte) (s t : State) : Prop extends KeepsBesideWire s t where
  trace : t.trace = s.trace ++ (frameRun v bs s.answerAt).1 ++ [.ret op (frameRun v bs s.answerAt).2]
  status : t.status = (frameRun v bs s.answerAt).2
  busy : t.busy = false
  cs : t.cs = csAfterFrame s.cs s.answerAt
  dc : t.dc = levelAfter (s.answerAt 0) s.dc v
  ctl : t.ctl = if t.status = .ok then s.ctl else .unknown
  tix : t.tix = s.tix
  pixcnt : t.pixcnt = s.pixcnt
  closed : s.inflight = false → t.inflight = false

/-- An operation accepted in `s`, its operand latched, has run the frame that its body has. -/
theorem FrameDone.operation {op : HostOp} {v : Level} {bs : List Byte} {s : State} {o : Byte} {d : List Byte}
    {p : Result × State} (h : FrameDone v bs { s.begin .idle with opc := o, data := d } p)
    (hop : op = .sendCommand ∨ op = .sendData) : RanFrame op v bs s (endOp op p) where
  cfg := h.cfg
  requests := h.requests
  refusals := h.refusals
  rst := h.rst
  bl := h.bl
  color := h.color
  duty := h.duty
  trace := by rw [endOp_trace, h.trace, h.result]; rfl
  status := h.result
  busy := rfl
  cs := h.cs
  dc := h.dc
  ctl := (endOp_ctl_of_kept h.ctl).trans (ctlAfter_frames (hop.imp_right .inl) _ _)
  tix := h.tix
  pixcnt := h.pixcnt
  closed := h.closed

theorem execSendCommand_ranFrame {op : Byte} {s t : State} (h : exec (.sendCommand op) s = .next t) :
    RanFrame .sendCommand .low [op] s t := by
  cases h
  exact (commandFrame_done op _).operation (.inl rfl)

theorem execSendData_ranFrame {bs : List Byte} {s t : State} (h : exec (.sendData bs) s = .next t) :
    RanFrame .sendData .high bs s t := by
  cases h
  exact (dataFrame_done bs _).operation (.inr rfl)

/-! ## FRAME after a command frame (R80 to R82) -/

/-- Log 16: a completed window command that found CS high leaves FRAME as known. -/
theorem commandFrame_frameMem_of_ok {op : Byte} {s : State} (hcs : s.cs = .high) (hok : (commandFrame op s).1 = .ok)
    (hop : isWindowCommand s.cfg op = true) : (commandFrame op s).2.frameMem = s.frameMem := by
  have hcfg := (wireOnly_frame .low [op] s).cfg
  obtain ⟨-, -, -, hmem⟩ := frame_ghost .low [op] s
  exact (if_pos ⟨hcs, hok, hcfg.symm ▸ hop⟩).trans hmem

/-- Settles O9: the frame of the opcode byte is run (`execSendCommand_ranFrame`); the latches, STREAM and FRAME are
those of the command frame. -/
theorem sendCommandRunsItsFrame : Obligations.SendCommandRunsItsFrame := by
  unfold Obligations.SendCommandRunsItsFrame
  intro op s
  have h := execSendCommand_ranFrame (op := op) (s := s) rfl
  have hwire := wireOnly_commandFrame op { s.begin .idle with opc := op }
  exact ⟨_, rfl, h.trace, h.status, h.busy, hwire.opc, h.cs, h.dc, h.ctl, execSendCommand_stream rfl,
    h.toKeepsBesideWire, h.tix, h.pixcnt, hwire.data, h.closed, commandFrame_nothingNewKnown op _,
    fun hcs hok hop => commandFrame_frameMem_of_ok hcs hok hop⟩

/-! ## FRAME after a data frame (R38, R53, R240) -/

/-- Streaming leaves the addresses past the bytes alone, but for one that half a pixel at the end makes unknown. -/
theorem Memory.read_of_read_stream {m : Memory} {bs : List Byte} {a : Nat} {y : Byte} (ha : bs.length ≤ a)
    (h : Memory.read (Memory.stream m bs) a = some y) : Memory.read m a = some y := by
  have hpast : ¬ (0 ≤ a ∧ a < 0 + (bs.take (2 * (bs.length / 2))).length) := by
    rw [List.length_take]
    omega
  rw [Memory.stream, Memory.read_forget, Memory.read_store, if_neg hpast] at h
  split at h
  · exact h
  · cases h

/-- R53, R240: a data span leaves FRAME as known, makes it unknown, or streams its bytes into it. -/
theorem frameAfter_cases (csBefore : Level) (s : State) :
    frameAfter csBefore s = s.frameMem ∨ frameAfter csBefore s = [] ∨
      s.stream = true ∧ frameAfter csBefore s = Memory.stream s.frameMem s.sent.reverse := by
  unfold frameAfter
  split
  · exact .inl rfl
  · split
    · exact .inr (.inl rfl)
    · split
      · exact .inl rfl
      next hstream =>
        split
        · exact .inr (.inr ⟨Bool.eq_true_of_not_eq_false hstream, rfl⟩)
        · exact .inr (.inl rfl)

/-- R52: what a data frame can make of FRAME, by the bytes that its events show to have gone out. -/
theorem dataFrame_frameMem_cases (bs : List Byte) (s : State) :
    (dataFrame bs s).2.frameMem = s.frameMem ∨ (dataFrame bs s).2.frameMem = [] ∨
      s.stream = true ∧
        (dataFrame bs s).2.frameMem = Memory.stream s.frameMem (wireBytes (frameRun .high bs s.answerAt).1) := by
  obtain ⟨-, hstream, -, hmem⟩ := frame_ghost .high bs s
  have hcases := frameAfter_cases s.cs (frame .high bs s).2
  rw [hstream, hmem, frame_sent, List.reverse_reverse] at hcases
  exact hcases

/-- R38: bytes sent outside a pixel stream are not placed. -/
theorem dataFrame_nothingNewKnown_of_not_stream (bs : List Byte) (s : State) (h : s.stream = false) :
    NothingNewKnown s (dataFrame bs s).2 := by
  intro a y hr
  rcases dataFrame_frameMem_cases bs s with hm | hm | ⟨hstream, -⟩
  · exact hm ▸ hr
  · rw [hm] at hr
    cases hr
  · rw [h] at hstream
    cases hstream

/-- Log 16: bytes sent outside a pixel stream, with CS high before, leave FRAME as known. -/
theorem dataFrame_frameMem_of_not_stream (bs : List Byte) (s : State) (h : s.stream = false) (hcs : s.cs = .high) :
    (dataFrame bs s).2.frameMem = s.frameMem := by
  obtain ⟨-, hstream, -, hmem⟩ := frame_ghost .high bs s
  change frameAfter s.cs (frame .high bs s).2 = s.frameMem
  simp [frameAfter, hcs, hstream, h, hmem]

/-- Nothing new becomes known at or past the number of bytes that went out. -/
theorem dataFrame_read_past (bs : List Byte) (s : State) {a : Nat} {y : Byte}
    (ha : (wireBytes (frameRun .high bs s.answerAt).1).length ≤ a)
    (hr : Memory.read (dataFrame bs s).2.frameMem a = some y) : Memory.read s.frameMem a = some y := by
  rcases dataFrame_frameMem_cases bs s with hm | hm | ⟨-, hm⟩ <;> rw [hm] at hr
  · exact hr
  · cases hr
  · exact Memory.read_of_read_stream ha hr

/-- Settles O10: the frame of the list is run (`execSendData_ranFrame`); the latches, STREAM and FRAME are those of the
data frame. -/
theorem sendDataRunsItsFrame : Obligations.SendDataRunsItsFrame := by
  unfold Obligations.SendDataRunsItsFrame
  intro bs s
  have h := execSendData_ranFrame (bs := bs) (s := s) rfl
  let accepted : State := { s.begin .idle with data := bs }
  have hwire := wireOnly_dataFrame bs accepted
  exact ⟨_, rfl, h.trace, h.status, h.busy, hwire.data, h.cs, h.dc, h.toKeepsBesideWire, h.tix, h.pixcnt, hwire.opc,
    (streamQuiet_dataFrame bs).stream accepted, h.ctl, h.closed,
    fun hs =>
      ⟨dataFrame_nothingNewKnown_of_not_stream bs accepted hs, dataFrame_frameMem_of_not_stream bs accepted hs⟩,
    fun _ _ => dataFrame_read_past bs accepted⟩

/-! ## The three shapes of a frame (R103, R104) -/

/-- R103, F1: the DC write failed. -/
theorem frameRun_of_dc_failed {ans : Nat → Answer} {k : Nat} {l : Bool} {c : Cause} (h : ans 0 = .fail k l c)
    (v : Level) (bs : List Byte) : frameRun v bs ans = ([.line .dc v (.fail c)], .err .gpio c) := by
  rw [frameRun, h]
  cases ans 1 <;> rfl

/-- R103, F2 and F3: the CS-low write failed, and the release is issued all the same. -/
theorem frameRun_of_open_failed {ans : Nat → Answer} {k : Nat} {l : Bool} {c : Cause} (h0 : ans 0 = .ok)
    (h1 : ans 1 = .fail k l c) (v : Level) (bs : List Byte) :
    frameRun v bs ans =
      ([.line .dc v .ok, .line .cs .low (.fail c), .line .cs .high (lineAnswer (ans 2))], .err .gpio c) := by
  rw [frameRun, h0, h1]
  cases ans 2 <;> rfl

/-- R103, F0 and F4 to F6: the span was opened, and the first error of the burst and the release is the result. -/
theorem frameRun_of_opened {ans : Nat → Answer} (h0 : ans 0 = .ok) (h1 : ans 1 = .ok) (v : Level) (bs : List Byte) :
    frameRun v bs ans =
      ([.line .dc v .ok, .line .cs .low .ok, .tx bs (burstAnswer (ans 2) bs.length),
        .line .cs .high (lineAnswer (ans 3))], firstError [burstResult (ans 2), lineResult (ans 3)]) := by
  rw [frameRun, h0, h1]
  cases ans 2 <;> cases ans 3 <;> rfl

/-- R103: the events of a frame, its result, and the level of CS after it, which was `before`. -/
inductive FrameShape (v : Level) (bs : List Byte) (before : Level) : List Event → Result → Level → Prop
  | dcFailed (c : Cause) : FrameShape v bs before [.line .dc v (.fail c)] (.err .gpio c) before
  | openFailed (c : Cause) (r : LineAnswer) (after : Level) (released : r = .ok → after = .high) :
      FrameShape v bs before [.line .dc v .ok, .line .cs .low (.fail c), .line .cs .high r] (.err .gpio c) after
  | opened (a : BurstAnswer) (r : LineAnswer) (result : Result) (after : Level) (released : r = .ok → after = .high) :
      FrameShape v bs before [.line .dc v .ok, .line .cs .low .ok, .tx bs a, .line .cs .high r] result after

/-- R9: a write answered `ok` leaves the line at the requested level. -/
theorem levelAfter_of_lineAnswer_ok {a : Answer} (h : lineAnswer a = .ok) (previous v : Level) :
    levelAfter a previous v = v := by
  cases a with
  | ok => rfl
  | fail k l c => cases h

theorem frameRun_shape (v : Level) (bs : List Byte) (before : Level) (ans : Nat → Answer) :
    FrameShape v bs before (frameRun v bs ans).1 (frameRun v bs ans).2 (csAfterFrame before ans) := by
  cases h0 : ans 0 with
  | fail k l c =>
    rw [frameRun_of_dc_failed h0, csAfterFrame, h0]
    exact .dcFailed c
  | ok =>
    cases h1 : ans 1 with
    | fail k l c =>
      rw [frameRun_of_open_failed h0 h1, csAfterFrame, h0, h1]
      exact .openFailed c _ _ fun h => levelAfter_of_lineAnswer_ok h _ _
    | ok =>
      rw [frameRun_of_opened h0 h1, csAfterFrame, h0, h1]
      exact .opened _ _ _ _ fun h => levelAfter_of_lineAnswer_ok h _ _

namespace FrameShape

variable {v before after : Level} {bs : List Byte} {es : List Event} {r : Result}

/-- R104 (a). -/
theorem cs_of_released (h : FrameShape v bs before es r after) (hrel : .line .cs .high .ok ∈ es) : after = .high := by
  cases h with
  | dcFailed c => simp at hrel
  | openFailed c r after released => exact released (by simpa [eq_comm] using hrel)
  | opened a r result after released => exact released (by simpa [eq_comm] using hrel)

/-- R104 (a). -/
theorem cs_of_no_write (h : FrameShape v bs before es r after) (hnone : ∀ w a, .line .cs w a ∉ es) :
    after = before := by
  cases h with
  | dcFailed c => rfl
  | openFailed c r after released => exact absurd (by simp) (hnone .high r)
  | opened a r result after released => exact absurd (by simp) (hnone .high r)

/-- R104 (b). -/
theorem dc_first (h : FrameShape v bs before es r after) :
    ∃ w a rest, es = .line .dc w a :: rest ∧ dcWrites rest = [] := by
  cases h <;> exact ⟨_, _, _, rfl, rfl⟩

/-- R104 (c). -/
theorem bursts_length_le (h : FrameShape v bs before es r after) : (bursts es).length ≤ 1 := by
  cases h <;> simp [bursts]

/-- R104 (c). -/
theorem burst_between (h : FrameShape v bs before es r after) {bs' : List Byte} {a : BurstAnswer}
    (hmem : .tx bs' a ∈ es) : ∃ e0 r0 r2, es = [e0, .line .cs .low r0, .tx bs' a, .line .cs .high r2] := by
  cases h with
  | dcFailed c => simp at hmem
  | openFailed c r after released => simp at hmem
  | opened a' r result after released =>
    obtain ⟨rfl, rfl⟩ : bs' = bs ∧ a = a' := by simpa using hmem
    exact ⟨_, _, _, rfl⟩

/-- R104 (d). -/
theorem length_of_ok (h : FrameShape v bs before es .ok after) : es.length = 4 := by
  cases h
  rfl

/-- R104 (d). -/
theorem length_cases (h : FrameShape v bs before es r after) : es.length = 1 ∨ es.length = 3 ∨ es.length = 4 := by
  cases h <;> simp

/-- R104 (e). -/
theorem rstWrites_eq_nil (h : FrameShape v bs before es r after) : rstWrites es = [] := by
  cases h <;> rfl

/-- R104 (e). -/
theorem blset_not_mem (h : FrameShape v bs before es r after) (d : Nat) : .blset d ∉ es := by
  cases h <;> simp

end FrameShape

/-- R103: what an operation of one frame has appended before its return. -/
theorem RanFrame.shape {op : HostOp} {v : Level} {bs : List Byte} {s t : State} (h : RanFrame op v bs s t) :
    ∃ es, t.trace = s.trace ++ es ++ [.ret op t.status] ∧ FrameShape v bs s.cs es t.status t.cs := by
  refine ⟨(frameRun v bs s.answerAt).1, ?_, ?_⟩
  · rw [h.trace, h.status]
  · rw [h.status, h.cs]
    exact frameRun_shape v bs s.cs s.answerAt

/-- Settles O12: both operations run one frame, and each clause holds of each of its shapes (`FrameShape`). -/
theorem callerMayRelyOnFrame : Obligations.CallerMayRelyOnFrame := by
  unfold Obligations.CallerMayRelyOnFrame
  intro i s t hi hexec
  have hran : ∃ op v bs, RanFrame op v bs s t := by
    rcases hi with ⟨op, rfl⟩ | ⟨bs, rfl⟩
    · exact ⟨_, _, _, execSendCommand_ranFrame hexec⟩
    · exact ⟨_, _, _, execSendData_ranFrame hexec⟩
  obtain ⟨op, v, bs, h⟩ := hran
  obtain ⟨es, htrace, hshape⟩ := h.shape
  exact ⟨es, op, htrace, hshape.cs_of_released, hshape.cs_of_no_write, hshape.dc_first, hshape.bursts_length_le,
    fun _ _ => hshape.burst_between, fun hok => (hok ▸ hshape).length_of_ok, fun _ => hshape.length_cases,
    hshape.rstWrites_eq_nil, h.rst, h.bl, hshape.blset_not_mem⟩

end Sys2Proof.Machine

/-! Proofs of the statements of spec/41_reset.md: the pulse of RESET (R120) and the writes that can end it (R121). -/

namespace Sys2Proof.Machine

/-! ## One phase of RESET (R120) -/

/-- The state after a phase of RESET that was not cut short: RST written, and the level held for 100 ms. -/
def heldAt (v : Level) (s : State) : State := wait 100 (drive .rst v s).2

@[simp] theorem heldAt_answerAt (v : Level) (s : State) (i : Nat) : (heldAt v s).answerAt i = s.answerAt (i + 1) := by
  rw [heldAt, wait_answerAt, drive_answerAt]

theorem heldAt_answersOk {s : State} {n : Nat} (h : AnswersOk s (n + 1)) (v : Level) : AnswersOk (heldAt v s) n :=
  fun i hi => (heldAt_answerAt v s i).trans (h (i + 1) (Nat.succ_lt_succ hi))

/-- A phase whose write is answered `ok` changes RST, the answers to come and the trace, and nothing else. -/
theorem heldAt_eq {s : State} (h : s.answerAt 0 = .ok) (v : Level) :
    heldAt v s = { s with rst := v, env := s.env.draw, log := .wait 100 :: .line .rst v .ok :: s.log } := by
  simp [heldAt, wait, drive, State.setLevel, State.draw, State.emit, h]

theorem heldAt_trace {s : State} (h : s.answerAt 0 = .ok) (v : Level) :
    (heldAt v s).trace = s.trace ++ [.line .rst v .ok, .wait 100] := by
  rw [heldAt, wait_trace, drive_trace, h, lineAnswer_ok, List.append_assoc]
  rfl

theorem heldAt_rst {s : State} (h : s.answerAt 0 = .ok) (v : Level) : (heldAt v s).rst = v := by
  rw [heldAt_eq h]

theorem resetPhase_ok {s : State} (h : s.answerAt 0 = .ok) (v : Level) : resetPhase v s = (.ok, heldAt v s) := by
  rw [resetPhase, attempt_ok (by rw [drive_fst, h, lineResult_ok]), resetHoldMs_eq]
  rfl

/-- R121: the wait that would follow a failed write is not performed. -/
theorem resetPhase_fail {s : State} {k : Nat} {b : Bool} {c : Cause} (h : s.answerAt 0 = .fail k b c) (v : Level) :
    resetPhase v s = drive .rst v s :=
  attempt_err (by rw [drive_fst, h, lineResult_fail])

/-- A phase that succeeds is followed by the next ones. -/
theorem attempt_resetPhase_ok {s : State} (h : s.answerAt 0 = .ok) (v : Level) (rest : State → Result × State) :
    attempt (resetPhase v) rest s = rest (heldAt v s) := by
  rw [attempt_ok (by rw [resetPhase_ok h]), resetPhase_ok h]

/-- R121: after a failed write no further phase is run. -/
theorem attempt_resetPhase_fail {s : State} {k : Nat} {b : Bool} {c : Cause} (h : s.answerAt 0 = .fail k b c)
    (v : Level) (rest : State → Result × State) : attempt (resetPhase v) rest s = drive .rst v s := by
  have hphase := resetPhase_fail h v
  rw [attempt_err (by rw [hphase, drive_fst, h, lineResult_fail]), hphase]

/-! ## The three phases (R120, R121) -/

/-- The first two phases, answered `ok`, leave the third. -/
theorem resetBody_of_two_ok {s : State} (h : AnswersOk s 2) :
    resetBody s = resetPhase .high (heldAt .low (heldAt .high s)) := by
  rw [resetBody, attempt_resetPhase_ok (h 0 (by decide)),
    attempt_resetPhase_ok (heldAt_answersOk h .high 0 (by decide))]

/-- The trace before the third phase. -/
theorem heldAt_heldAt_trace {s : State} (h : AnswersOk s 2) (v w : Level) :
    (heldAt w (heldAt v s)).trace = s.trace ++ [.line .rst v .ok, .wait 100, .line .rst w .ok, .wait 100] := by
  rw [heldAt_trace (heldAt_answersOk h v 0 (by decide)), heldAt_trace (h 0 (by decide)), List.append_assoc]
  rfl

/-- R120: RESET's three phases, their writes answered `ok`. -/
theorem resetBody_ok {s : State} (h : AnswersOk s 3) :
    resetBody s =
      (.ok, { s with rst := .high, env := s.env.draw.draw.draw, log := resetEvents.reverse ++ s.log }) := by
  have h0 := h 0 (by decide)
  have h1 := heldAt_answersOk h .high 0 (by decide)
  have h2 := heldAt_answersOk (heldAt_answersOk h .high) .low 0 (by decide)
  rw [resetBody_of_two_ok fun i hi => h i (by omega), resetPhase_ok h2, heldAt_eq h2, heldAt_eq h1, heldAt_eq h0]
  rfl

theorem resetBody_first_fails {s : State} {k : Nat} {b : Bool} {c : Cause} (h : s.answerAt 0 = .fail k b c) :
    resetBody s = drive .rst .high s :=
  attempt_resetPhase_fail h _ _

theorem resetBody_second_fails {s : State} {k : Nat} {b : Bool} {c : Cause} (hok : AnswersOk s 1)
    (h : s.answerAt 1 = .fail k b c) : resetBody s = drive .rst .low (heldAt .high s) := by
  rw [resetBody, attempt_resetPhase_ok (hok 0 (by decide))]
  exact attempt_resetPhase_fail ((heldAt_answerAt _ _ _).trans h) _ _

theorem resetBody_third_fails {s : State} {k : Nat} {b : Bool} {c : Cause} (hok : AnswersOk s 2)
    (h : s.answerAt 2 = .fail k b c) : resetBody s = drive .rst .high (heldAt .low (heldAt .high s)) := by
  rw [resetBody_of_two_ok hok]
  exact resetPhase_fail (by rw [heldAt_answerAt, heldAt_answerAt, h]) .high

/-! ## The possible results (R121) -/

/-- A result that only a line write can have given. -/
def OkOrGpio (r : Result) : Prop := r = .ok ∨ ∃ c, r = .err .gpio c

theorem OkOrGpio.drive (l : Line) (v : Level) (s : State) : OkOrGpio (drive l v s).1 := by
  rw [drive_fst]
  cases s.answerAt 0 with
  | ok => exact .inl rfl
  | fail k b c => exact .inr ⟨c, rfl⟩

theorem OkOrGpio.attempt {p k : State → Result × State} (hp : ∀ s, OkOrGpio (p s).1) (hk : ∀ s, OkOrGpio (k s).1)
    (s : State) : OkOrGpio (attempt p k s).1 := by
  rcases attempt_cases p k s with ⟨-, h⟩ | ⟨-, h⟩ <;> rw [h]
  · exact hk _
  · exact hp s

theorem okOrGpio_resetPhase (v : Level) : ∀ s, OkOrGpio (resetPhase v s).1 :=
  .attempt (.drive .rst v) fun _ => .inl rfl

theorem okOrGpio_resetBody : ∀ s, OkOrGpio (resetBody s).1 :=
  .attempt (okOrGpio_resetPhase .high) (.attempt (okOrGpio_resetPhase .low) (okOrGpio_resetPhase .high))

/-! ## The operation (R120 to R122) -/

/-- RESET ends the operation with what its three phases did. -/
theorem exec_reset_of_resetBody {s : State} {p : Result × State} (h : resetBody (s.begin .idle) = p) :
    exec .reset s = .next (endOp .reset (noteReset p)) := by
  rw [← h]
  rfl

/-- Settles O13: the state after the three phases is written out (`resetBody_ok`); the trace has grown by their events,
and every register is read off. -/
theorem resetPulsesTheLine : Obligations.ResetPulsesTheLine := by
  unfold Obligations.ResetPulsesTheLine
  intro s h
  have hok : AnswersOk (s.begin .idle) 3 := h
  refine ⟨_, exec_reset_of_resetBody (resetBody_ok hok), ?trace, rfl, rfl, rfl, rfl, rfl, rfl, rfl, rfl,
    ⟨rfl, rfl, rfl⟩, rfl, rfl, rfl, rfl, rfl, rfl, rfl⟩
  case trace =>
    rw [endOp_trace]
    simp [State.trace, noteReset, resetEvents]

/-- R121: what RESET leaves when its phases, having appended `es` and left RST at `w`, end in a failed write of `v`. -/
theorem exec_reset_of_failed_write {s u : State} {v w : Level} {es : List Event} {k : Nat} {b : Bool} {c : Cause}
    (hbody : resetBody (s.begin .idle) = drive .rst v u) (hfail : u.answerAt 0 = .fail k b c)
    (htrace : u.trace = s.trace ++ es) (hrst : u.rst = w) :
    ∃ t, exec .reset s = .next t ∧
      t.trace = s.trace ++ (es ++ [.line .rst v (.fail c)]) ++ [.ret .reset (.err .gpio c)] ∧
      t.status = .err .gpio c ∧ t.rst = (if b then v else w) ∧ t.ctl = .unknown := by
  have hresult : (drive .rst v u).1 = .err .gpio c := by rw [drive_fst, hfail, lineResult_fail]
  refine ⟨_, exec_reset_of_resetBody hbody, ?trace, hresult, ?rst, ?ctl⟩
  case trace =>
    change (endOp .reset (drive .rst v u)).trace = _
    rw [endOp_trace, drive_trace, hresult, hfail, lineAnswer_fail, htrace, List.append_assoc s.trace]
  case rst =>
    change levelAfter (u.answerAt 0) u.rst v = _
    rw [hfail, levelAfter_fail, hrst]
  case ctl =>
    change ctlAfter .reset (drive .rst v u).1 _ = .unknown
    rw [hresult]
    rfl

/-- Settles O14: in each of the three cases the phases end in the failed write (`exec_reset_of_failed_write`), issued in
the state that the phases before it held; and only a line write can fail (`okOrGpio_resetBody`). -/
theorem resetStopsAtFailedWrite : Obligations.ResetStopsAtFailedWrite := by
  unfold Obligations.ResetStopsAtFailedWrite
  intro s k b c
  let accepted : State := s.begin .idle
  refine ⟨fun (hfail : accepted.answerAt 0 = _) => ?first, fun (hok : AnswersOk accepted 1) hfail => ?second,
    fun (hok : AnswersOk accepted 2) hfail => ?third, ⟨_, rfl, okOrGpio_resetBody accepted⟩⟩
  case first =>
    exact exec_reset_of_failed_write (resetBody_first_fails hfail) hfail (List.append_nil _).symm rfl
  case second =>
    have hfail' : (heldAt .high accepted).answerAt 0 = .fail k b c := (heldAt_answerAt _ _ _).trans hfail
    have h0 := hok 0 (by decide)
    exact exec_reset_of_failed_write (resetBody_second_fails hok hfail) hfail' (heldAt_trace h0 .high)
      (heldAt_rst h0 .high)
  case third =>
    have hfail' : (heldAt .low (heldAt .high accepted)).answerAt 0 = .fail k b c := by
      rw [heldAt_answerAt, heldAt_answerAt]
      exact hfail
    have h1 := heldAt_answersOk hok .high 0 (by decide)
    exact exec_reset_of_failed_write (resetBody_third_fails hok hfail) hfail' (heldAt_heldAt_trace hok .high .low)
      (heldAt_rst h1 .low)

end Sys2Proof.Machine

/-! Proofs of the statements of spec/42_initialize.md: the table entries (R131, R132), the replay of the table (R130,
R134), where it stops (R133), what it counts (R136), and that it is a walk of the table, one entry a step (R88). -/

namespace Sys2Proof.Machine

/-! ## Frames that succeed had their requests answered `ok` (R103) -/

theorem lineResult_eq_ok {a : Answer} : lineResult a = .ok ↔ a = .ok := by
  cases a <;> simp

theorem burstResult_eq_ok {a : Answer} : burstResult a = .ok ↔ a = .ok := by
  cases a <;> simp

theorem firstError_cons_eq_ok {r : Result} {rs : List Result} :
    firstError (r :: rs) = .ok ↔ r = .ok ∧ firstError rs = .ok := by
  cases r <;> simp

/-- R103: F0 is the one row of the table whose result is Ok. -/
theorem frameRun_snd_eq_ok {v : Level} {bs : List Byte} {ans : Nat → Answer} :
    (frameRun v bs ans).2 = .ok ↔ ∀ i, i < 4 → ans i = .ok := by
  refine ⟨fun h => ?_, fun h => by rw [frameRun_ok h]⟩
  cases h0 : ans 0 with
  | fail k l c =>
    rw [frameRun_of_dc_failed h0] at h
    cases h
  | ok =>
    cases h1 : ans 1 with
    | fail k l c =>
      rw [frameRun_of_open_failed h0 h1] at h
      cases h
    | ok =>
      rw [frameRun_of_opened h0 h1, firstError_cons_eq_ok, burstResult_eq_ok, firstError_cons_eq_ok,
        lineResult_eq_ok] at h
      obtain ⟨h2, h3, -⟩ := h
      intro i hi
      interval_cases i <;> assumption

/-- R88: frames succeed exactly when all their requests are answered `ok`. -/
theorem framesRun_snd_eq_ok {fs : List (Level × List Byte)} {ans : Nat → Answer} :
    (framesRun fs ans).2 = .ok ↔ ∀ i, i < 4 * fs.length → ans i = .ok := by
  refine ⟨fun h => ?_, fun h => by rw [framesRun_ok fs h]⟩
  induction fs generalizing ans with
  | nil => exact fun i hi => absurd hi (Nat.not_lt_zero i)
  | cons f fs ih =>
    obtain ⟨v, bs⟩ := f
    cases hf : (frameRun v bs ans).2 with
    | err kind c => simp [framesRun, hf] at h
    | ok =>
      have hrest : (framesRun fs fun i => ans (i + 4)).2 = .ok := by simpa only [framesRun, hf] using h
      intro i hi
      rw [List.length_cons] at hi
      rcases Nat.lt_or_ge i 4 with h4 | h4
      · exact frameRun_snd_eq_ok.1 hf i h4
      · have := ih hrest (i - 4) (by omega)
        rwa [Nat.sub_add_cancel h4] at this

/-! ## One entry (R131, R132) -/

/-- R131: a Command entry makes eight requests, and completes exactly when all are answered `ok`. -/
theorem tCommandBody_fst_eq_ok {op : Byte} {ps : List Byte} {s : State} :
    (tCommandBody op ps s).1 = .ok ↔ AnswersOk s 8 := by
  rw [(tCommandBody_runs op ps s).result]
  exact framesRun_snd_eq_ok

/-- R131: a Command entry that completed has appended its eight events. -/
theorem tCommandBody_trace_of_ok {op : Byte} {ps : List Byte} {s : State} (h : (tCommandBody op ps s).1 = .ok) :
    (tCommandBody op ps s).2.trace = s.trace ++ (frameEvents .low [op] ++ frameEvents .high ps) := by
  rw [(tCommandBody_runs op ps s).trace,
    framesRun_ok [(.low, [op]), (.high, ps)] (tCommandBody_fst_eq_ok.1 h)]
  rfl

theorem tCommandBody_cs_of_ok {op : Byte} {ps : List Byte} {s : State} (h : (tCommandBody op ps s).1 = .ok) :
    (tCommandBody op ps s).2.cs = .high :=
  (tCommandBody_runs op ps s).high (by simp) h

/-- R131: the data frame's DC write is the entry's last. -/
theorem tCommandBody_dc_of_ok {op : Byte} {ps : List Byte} {s : State} (h : (tCommandBody op ps s).1 = .ok) :
    (tCommandBody op ps s).2.dc = .high := by
  obtain ⟨-, hdata, hbody⟩ := attempt_fst_ok h
  have hdone := dataFrame_done ps (commandFrame op { s with opc := op, data := ps }).2
  rw [hdone.result] at hdata
  rw [tCommandBody, hbody, hdone.dc, frameRun_snd_eq_ok.1 hdata 0 (by decide), levelAfter_ok]

/-- R33: the latches hold the entry's operands. -/
theorem tCommandBody_latches (op : Byte) (ps : List Byte) (s : State) :
    (tCommandBody op ps s).2.opc = op ∧ (tCommandBody op ps s).2.data = ps :=
  have h := wireOnly_attempt (wireOnly_commandFrame op) (wireOnly_dataFrame ps) { s with opc := op, data := ps }
  ⟨h.opc, h.data⟩

theorem entryDone_of_ok {p : Result × State} (h : p.1 = .ok) : entryDone p = p.2.nextEntry := by
  rw [entryDone, h]

theorem entryDone_of_err {p : Result × State} {kind : ErrorKind} {c : Cause} (h : p.1 = .err kind c) :
    entryDone p = endOp .initializePanel p := by
  rw [entryDone, h]

/-- What the body of an entry leaves alone, the end of the entry leaves alone too. -/
theorem EntryKeeps.entryDone {s : State} {p : Result × State} (h : EntryKeeps s p.2) :
    KeepsBesideWire s (entryDone p) ∧ (entryDone p).pixcnt = s.pixcnt ∧ NothingNewKnown s (entryDone p) := by
  rcases entryDone_cases p with hd | hd <;> rw [hd] <;>
    exact ⟨⟨⟨h.cfg, h.requests, h.refusals⟩, h.rst, h.bl, h.color, h.duty⟩, h.pixcnt, h.nothingNewKnown⟩

/-- R72: an entry run as an instruction is its body, and its end. -/
theorem exec_toInstr (e : CommandEntry) (s : State) : exec e.toInstr s = .next (entryDone (entryBody e s)) := by
  cases e <;> rfl

/-- Settles O20: the entry's body never fails, and the next state is computed. -/
theorem tableDelayWaitsOnce : Obligations.TableDelayWaitsOnce := by
  unfold Obligations.TableDelayWaitsOnce
  exact fun n s => ⟨_, rfl, wait_trace n s, rfl, rfl⟩

/-- Settles O19: the body runs the two frames (`tCommandBody_runs`), and only an error appends a return. -/
theorem tableCommandSendsTwoFrames : Obligations.TableCommandSendsTwoFrames := by
  unfold Obligations.TableCommandSendsTwoFrames
  intro op ps s
  have htrace := (tCommandBody_runs op ps s).trace
  refine ⟨_, exec_toInstr (.command op ps) s, ?events, fun hok => ?success, fun hok => ?registers⟩
  case events =>
    cases h : (tCommandBody op ps s).1 with
    | ok =>
      rw [entryBody, entryDone_of_ok h, trace_nextEntry, htrace]
      exact ⟨[], by simp, by simp, (List.append_nil _).symm⟩
    | err kind c =>
      rw [entryBody, entryDone_of_err h, endOp_trace, htrace, h]
      exact ⟨[.ret .initializePanel (.err kind c)], by simp, by simp, rfl⟩
  case success =>
    have h : (tCommandBody op ps s).1 = .ok := tCommandBody_fst_eq_ok.2 hok
    rw [entryBody, entryDone_of_ok h, trace_nextEntry, tCommandBody_trace_of_ok h]
    rfl
  case registers =>
    have h : (tCommandBody op ps s).1 = .ok := tCommandBody_fst_eq_ok.2 hok
    obtain ⟨hopc, hdata⟩ := tCommandBody_latches op ps s
    rw [entryBody, entryDone_of_ok h]
    exact ⟨congrArg (· + 1) (entryBody_tix (.command op ps) s), tCommandBody_dc_of_ok h, tCommandBody_cs_of_ok h,
      hopc, hdata⟩

/-- Settles O18: the body's result decides between the next entry and the return of the error; what the entry leaves
alone is `entryBody_keeps`. -/
theorem tableCommandIsTwoFrames : Obligations.TableCommandIsTwoFrames := by
  unfold Obligations.TableCommandIsTwoFrames
  intro op ps s
  have hruns := tCommandBody_runs op ps s
  have hkeeps : EntryKeeps s (tCommandBody op ps s).2 := entryBody_keeps (.command op ps) s
  have htix : (tCommandBody op ps s).2.tix = s.tix := entryBody_tix (.command op ps) s
  rw [← hruns.result]
  refine ⟨_, exec_toInstr (.command op ps) s, fun hok => ?success, fun kind c herr => ?error, hkeeps.entryDone⟩
  case success =>
    rw [entryBody, entryDone_of_ok hok, trace_nextEntry, tCommandBody_trace_of_ok hok, List.append_assoc]
    exact ⟨rfl, congrArg (· + 1) htix, hkeeps.status, hkeeps.busy, hkeeps.activity, tCommandBody_dc_of_ok hok,
      tCommandBody_cs_of_ok hok⟩
  case error =>
    rw [entryBody, entryDone_of_err herr, endOp_trace, hruns.trace, endOp_ctl, endOp_status, herr]
    exact ⟨rfl, htix, rfl, rfl, rfl, rfl⟩

/-! ## The replay on its success path (R130, R134) -/

@[simp] theorem commandCount_command (op : Byte) (ps : List Byte) (t : List CommandEntry) :
    commandCount (.command op ps :: t) = commandCount t + 1 := by
  simp [commandCount]

@[simp] theorem commandCount_delay (n : Nat) (t : List CommandEntry) :
    commandCount (.delay n :: t) = commandCount t := by
  simp [commandCount]

theorem entryBody_fst_of_ok {e : CommandEntry} {s : State} (h : AnswersOk s (8 * commandCount [e])) :
    (entryBody e s).1 = .ok := by
  cases e with
  | command op ps => exact tCommandBody_fst_eq_ok.2 h
  | delay n => rfl

theorem entryBody_trace_of_ok {e : CommandEntry} {s : State} (h : (entryBody e s).1 = .ok) :
    (entryBody e s).2.trace = s.trace ++ entryEvents e := by
  cases e with
  | command op ps => exact tCommandBody_trace_of_ok h
  | delay n => exact wait_trace n s

/-- R133, R134: a replay that completes has left the events of its entries, in order, and no other. -/
theorem replayList_trace_of_ok {es : List CommandEntry} {s : State} (h : (replayList es s).1 = .ok) :
    (replayList es s).2.trace = s.trace ++ es.flatMap entryEvents := by
  induction es generalizing s with
  | nil => exact (List.append_nil _).symm
  | cons e es ih =>
    obtain ⟨he, hes, hr⟩ := attempt_fst_ok h
    rw [replayList, hr, ih hes, trace_nextEntry, entryBody_trace_of_ok he, List.flatMap_cons, List.append_assoc]

/-- R130: with eight good answers for each Command entry the replay completes. -/
theorem replayList_fst_of_ok {es : List CommandEntry} {s : State} (h : AnswersOk s (8 * commandCount es)) :
    (replayList es s).1 = .ok := by
  induction es generalizing s with
  | nil => rfl
  | cons e es ih =>
    rw [commandCount_cons] at h
    have he : (entryBody e s).1 = .ok := entryBody_fst_of_ok fun i hi => h i (by omega)
    rw [replayList, attempt_ok he]
    refine ih fun i hi => ?_
    rw [answerAt_nextEntry, entryBody_answerAt he]
    exact h _ (by omega)

/-- Settles O15: the replay completes (`replayList_fst_of_ok`), with its entries' events and `TIX` past the last of
them; what it leaves alone is `replayList_keeps`. -/
theorem initializeReplaysTable : Obligations.InitializeReplaysTable := by
  unfold Obligations.InitializeReplaysTable
  intro s hok
  let accepted : State := { s.begin .replay with tix := 0 }
  have h : (replayList s.cfg.initTable accepted).1 = .ok := replayList_fst_of_ok hok
  have hkeeps := replayList_keeps s.cfg.initTable accepted
  obtain ⟨-, -, htix⟩ := replayList_tix s.cfg.initTable accepted
  refine ⟨_, rfl, ?_⟩
  rw [execInitializePanel_is (s := s) rfl, endOp_trace, endOp_ctl, endOp_status, hkeeps.ctl,
    replayList_trace_of_ok h, h]
  exact ⟨rfl, (htix h).trans (Nat.zero_add _), rfl, rfl, rfl,
    ⟨⟨hkeeps.cfg, hkeeps.requests, hkeeps.refusals⟩, hkeeps.rst, hkeeps.bl, hkeeps.color, hkeeps.duty⟩,
    hkeeps.pixcnt, hkeeps.nothingNewKnown⟩

/-! ## The counts (R136) -/

/-- The counts of R136 for a table: what `es`, the events of its entries, amount to. -/
structure CountsOf (t : List CommandEntry) (es : List Event) : Prop where
  events : es.length = 8 * commandCount t + (delays t).length
  bursts : (bursts es).length = 2 * commandCount t
  bytes : (wireBytes es).length = commandCount t + parameterBytes t
  dc : dcWrites es = (List.replicate (commandCount t) [Level.low, Level.high]).flatten
  cs : csWrites es = (List.replicate (2 * commandCount t) [Level.low, Level.high]).flatten
  waits : waits es = delays t
  rst : rstWrites es = []

theorem CountsOf.command {t : List CommandEntry} {es : List Event} (h : CountsOf t es) (op : Byte) (ps : List Byte) :
    CountsOf (.command op ps :: t) (entryEvents (.command op ps) ++ es) where
  events := by
    change es.length + 8 = _ + (delays t).length
    rw [h.events, commandCount_command]
    omega
  bursts := by
    change (Machine.bursts es).length + 2 = _
    rw [h.bursts, commandCount_command]
    omega
  bytes := by
    change ([op] ++ (ps ++ wireBytes es)).length = _ + (ps.length + parameterBytes t)
    rw [List.length_append, List.length_append, h.bytes, commandCount_command, List.length_singleton]
    omega
  dc := by
    rw [commandCount_command, List.replicate_succ, List.flatten_cons, ← h.dc]
    rfl
  cs := by
    rw [commandCount_command, Nat.mul_succ, List.replicate_succ, List.replicate_succ, List.flatten_cons,
      List.flatten_cons, ← h.cs]
    rfl
  waits := h.waits
  rst := h.rst

theorem CountsOf.delay {t : List CommandEntry} {es : List Event} (h : CountsOf t es) (n : Nat) :
    CountsOf (.delay n :: t) (entryEvents (.delay n) ++ es) where
  events := by
    change es.length + 1 = _ + ((delays t).length + 1)
    rw [h.events, commandCount_delay, Nat.add_assoc]
  bursts := by rw [commandCount_delay]; exact h.bursts
  bytes := by rw [commandCount_delay]; exact h.bytes
  dc := by rw [commandCount_delay]; exact h.dc
  cs := by rw [commandCount_delay]; exact h.cs
  waits := congrArg (n :: ·) h.waits
  rst := h.rst

theorem countsOf_flatMap_entryEvents (t : List CommandEntry) : CountsOf t (t.flatMap entryEvents) := by
  induction t with
  | nil => constructor <;> rfl
  | cons e t ih =>
    rw [List.flatMap_cons]
    cases e with
    | command op ps => exact ih.command op ps
    | delay n => exact ih.delay n

/-- R72: every entry is a Command or a Delay. -/
theorem commandCount_add_delays_length (t : List CommandEntry) : commandCount t + (delays t).length = t.length := by
  induction t with
  | nil => rfl
  | cons e t ih =>
    cases e <;> simp only [commandCount_command, commandCount_delay, delays, List.length_cons] <;> omega

/-- Settles O17: the events are those of the entries (`initializeReplaysTable`), counted entry by entry
(`countsOf_flatMap_entryEvents`). -/
theorem initializeCounts : Obligations.InitializeCounts := by
  unfold Obligations.InitializeCounts
  intro s hok
  obtain ⟨t, hexec, htrace, -, hstatus, -⟩ := initializeReplaysTable s hok
  have h := countsOf_flatMap_entryEvents s.cfg.initTable
  have hdelays : (delays s.cfg.initTable).length = tableLen s.cfg - commandCount s.cfg.initTable :=
    Nat.eq_sub_of_add_eq' (commandCount_add_delays_length s.cfg.initTable)
  exact ⟨t, _, hexec, htrace, hstatus, hdelays ▸ h.events, h.bursts, h.bytes, h.dc, h.cs, h.waits, hdelays, h.rst,
    fun hnil => by rw [hnil]; rfl⟩

/-! ## Where the replay stops (R133) -/

/-- R133: a replay that returns an error has completed the entries before some Command entry, and ends as the body of
that entry, run after them, does. -/
theorem replayList_of_err {es : List CommandEntry} {s : State} {kind : ErrorKind} {c : Cause}
    (h : (replayList es s).1 = .err kind c) :
    ∃ before op ps after, es = before ++ .command op ps :: after ∧ (replayList before s).1 = .ok ∧
      replayList es s = tCommandBody op ps (replayList before s).2 := by
  induction es generalizing s with
  | nil => cases h
  | cons e es ih =>
    rw [replayList] at h ⊢
    rcases attempt_cases (entryBody e) (fun u => replayList es u.nextEntry) s with
      ⟨he, ha⟩ | ⟨⟨k', c', he⟩, ha⟩ <;> rw [ha] at h ⊢
    · obtain ⟨before, op, ps, after, rfl, hbefore, hstop⟩ := ih h
      have hcons : replayList (e :: before) s = replayList before (entryBody e s).2.nextEntry := attempt_ok he
      exact ⟨e :: before, op, ps, after, rfl, hcons ▸ hbefore, hcons ▸ hstop⟩
    · cases e with
      | command op ps => exact ⟨[], op, ps, es, rfl, rfl, rfl⟩
      | delay n => cases he

/-- R133: `TIX` holds the entry where the replay stopped; its frames, run with the answers that the entries before it
have left, give the error and the last events. -/
theorem replayList_stops_at_entry {es : List CommandEntry} {s : State} {kind : ErrorKind} {c : Cause}
    (h : (replayList es s).1 = .err kind c) :
    ∃ before op ps after, es = before ++ .command op ps :: after ∧
      (replayList es s).2.tix = s.tix + before.length ∧
      (framesRun [(.low, [op]), (.high, ps)] fun i => s.answerAt (i + 8 * commandCount before)).2 = .err kind c ∧
      (replayList es s).2.trace = s.trace ++ before.flatMap entryEvents ++
        (framesRun [(.low, [op]), (.high, ps)] fun i => s.answerAt (i + 8 * commandCount before)).1 := by
  obtain ⟨before, op, ps, after, rfl, hbefore, hstop⟩ := replayList_of_err h
  have hruns := tCommandBody_runs op ps (replayList before s).2
  have hanswers : (replayList before s).2.answerAt = fun i => s.answerAt (i + 8 * commandCount before) :=
    funext (replayList_answerAt hbefore)
  have htix : (tCommandBody op ps (replayList before s).2).2.tix = (replayList before s).2.tix :=
    entryBody_tix (.command op ps) _
  refine ⟨before, op, ps, after, rfl, ?_⟩
  rw [hstop] at h ⊢
  rw [← hanswers, ← hruns.result, hruns.trace, replayList_trace_of_ok hbefore, htix]
  exact ⟨(replayList_tix before s).2.2 hbefore, h, rfl⟩

/-- Settles O16: what INITIALIZE ends with is what the replay stopped with (`replayList_stops_at_entry`). -/
theorem initializeStopsAtFirstError : Obligations.InitializeStopsAtFirstError := by
  unfold Obligations.InitializeStopsAtFirstError
  intro s t kind c hexec hstatus
  obtain rfl := execInitializePanel_is hexec
  rw [endOp_status] at hstatus
  obtain ⟨before, op, ps, after, htable, htix, hresult, htrace⟩ := replayList_stops_at_entry hstatus
  rw [endOp_trace, endOp_ctl, endOp_tix, hstatus, htrace, htix]
  exact ⟨before, op, ps, after, htable, Nat.zero_add _, hresult, rfl, rfl⟩

/-! ## The walk of the table (R88, R130) -/

/-- A run of a machine whose next step is known goes on from the state after it. -/
theorem core_run_succ_of_step (M : Host.Core) {s u : M.State} (h : M.step s = .next u) (n : Nat) :
    M.run (n + 1) s = M.run n u := by
  simp only [Host.Core.run, h]

theorem run_succ_of_step {s u : State} (h : step s = .next u) (n : Nat) :
    Host.Core.run core (n + 1) s = Host.Core.run core n u :=
  core_run_succ_of_step core h n

/-- R231: idle, with the host presenting nothing, the sequencer stays as it is. -/
theorem run_of_waiting {s : State} (hidle : s.busy = false) (hr : s.env.requests = []) (n : Nat) :
    Host.Core.run core n s = .next s := by
  induction n with
  | zero => rfl
  | succ n ih =>
    have hwait : step s = .next s := step_of_wait ((fetch_of_idle hidle).trans (by rw [fetchHost, hr]))
    rw [run_succ_of_step hwait, ih]

/-- R30, R130: inside INITIALIZE, with the entries `es` still to come, a step for each and one for the return lead to
the end of their replay; after an error the remaining steps wait. -/
theorem run_of_replaying {es : List CommandEntry} {s : State} (hbusy : s.busy = true) (ha : s.activity = .replay)
    (hr : s.env.requests = []) (hes : s.cfg.initTable.drop s.tix = es) :
    Host.Core.run core (es.length + 1) s = .next (endOp .initializePanel (replayList es s)) := by
  induction es generalizing s with
  | nil =>
    have hend : fetch s = .finish :=
      (fetch_of_replay hbusy ha).trans (fetchEntry_of_end (List.drop_eq_nil_iff.1 hes))
    rw [List.length_nil, run_succ_of_step (step_of_finish hend), finish, ha]
    rfl
  | cons e es ih =>
    have hget : s.cfg.initTable[s.tix]? = some e := by rw [← List.head?_drop, hes]; rfl
    have hrest : s.cfg.initTable.drop (s.tix + 1) = es := by rw [← List.tail_drop, hes]; rfl
    have hkeeps := entryBody_keeps e s
    have hstep : step s = .next (entryDone (entryBody e s)) :=
      (step_of_run ((fetch_of_replay hbusy ha).trans (fetchEntry_of_get hget))).trans (exec_toInstr e s)
    rw [run_succ_of_step hstep, replayList]
    rcases attempt_cases (entryBody e) (fun u => replayList es u.nextEntry) s with
      ⟨he, hw⟩ | ⟨⟨kind, c, he⟩, hw⟩ <;> rw [hw]
    · rw [entryDone_of_ok he, List.length_cons]
      refine ih (hkeeps.busy.trans hbusy) (hkeeps.activity.trans ha) (hkeeps.requests.trans hr) ?_
      rw [nextEntry_cfg, nextEntry_tix, hkeeps.cfg, entryBody_tix, hrest]
    · rw [entryDone_of_err he]
      exact run_of_waiting (endOp_busy _ _) (hkeeps.requests.trans hr) _

/-- Settles O41: the walk from entry 0 (`run_of_replaying`) ends as the replay of the whole table does. -/
theorem initializeIsTheTableWalk : Obligations.InitializeIsTheTableWalk := by
  unfold Obligations.InitializeIsTheTableWalk
  intro s hr
  calc
    _ = .next (endOp .initializePanel (replayList s.cfg.initTable { s.begin .replay with tix := 0 })) :=
      run_of_replaying (s := { s.begin .replay with tix := 0 }) rfl rfl hr rfl
    _ = exec .initializePanel s := congrArg Host.Outcome.next (execInitializePanel_is rfl).symm

end Sys2Proof.Machine

/-! Proofs of the statements of spec/43_window_clear.md: the steps of the window body (R151 to R153), SET_FULL_WINDOW
(R150), CLEAR (R154 to R157), and that both operations are their steps (R88). -/

namespace Sys2Proof.Machine

/-! ## The end of a step (R150, R198) -/

/-- R37, R198: what the end of a window operation leaves when its body, having appended `es`, returns an error. -/
structure ReturnedError (op : HostOp) (kind : ErrorKind) (c : Cause) (es : List Event) (s t : State) : Prop where
  trace : t.trace = s.trace ++ es ++ [.ret op (.err kind c)]
  status : t.status = .err kind c
  busy : t.busy = false
  activity : t.activity = .idle
  ctl : t.ctl = .unknown

theorem endOp_returnedError {op : HostOp} {kind : ErrorKind} {c : Cause} {es : List Event} {s : State}
    {p : Result × State} (hop : op = .setFullWindow ∨ op = .clear) (herr : p.1 = .err kind c)
    (htrace : p.2.trace = s.trace ++ es) : ReturnedError op kind c es s (endOp op p) where
  trace := by rw [endOp_trace, htrace, herr]
  status := herr
  busy := rfl
  activity := rfl
  ctl := by
    rw [endOp_ctl, herr]
    exact ctlAfter_frames (.inr (.inr hop)) (.err kind c) _

theorem windowOp_cases (a : Activity) : windowOp a = .setFullWindow ∨ windowOp a = .clear := by
  cases a <;> simp [windowOp]

/-- R150: where a step of the window body that succeeded leaves the sequencer. -/
def nextActivity : Activity → Activity
  | .window st => .window (nextStage st)
  | .clearing st => .clearing (nextStage st)
  | a => a

theorem advanceStage_eq (s : State) : s.advanceStage = { s with activity := nextActivity s.activity } := by
  obtain ⟨⟩ := s
  rename_i activity _ _ _
  cases activity <;> rfl

theorem wireDone_of_ok {p : Result × State} (h : p.1 = .ok) :
    wireDone p = { p.2 with activity := nextActivity p.2.activity } := by
  rw [wireDone, h, ← advanceStage_eq]

theorem wireDone_of_err {p : Result × State} {kind : ErrorKind} {c : Cause} (h : p.1 = .err kind c) :
    wireDone p = endOp (windowOp p.2.activity) p := by
  rw [wireDone, h]

/-! ## A step by its frames (R88, R150) -/

/-- R88: a procedure that succeeds leaves the events of its frames, one frame after the other. -/
theorem RunsFrames.trace_of_ok {fs : List (Level × List Byte)} {f : State → Result × State} {s : State}
    (h : RunsFrames fs f s) (hok : (f s).1 = .ok) :
    (f s).2.trace = s.trace ++ fs.flatMap fun g => frameEvents g.1 g.2 := by
  rw [h.trace, framesRun_ok fs (framesRun_snd_eq_ok.1 (h.result.symm.trans hok))]

/-- R150: from `s` to `t` a step of the window body has run the frames `fs` without error, and the body goes on. -/
structure WentOn (fs : List (Level × List Byte)) (s t : State) : Prop where
  trace : t.trace = s.trace ++ fs.flatMap fun g => frameEvents g.1 g.2
  cs : t.cs = .high
  busy : t.busy = s.busy
  status : t.status = s.status
  activity : t.activity = nextActivity s.activity

theorem RunsFrames.wentOn {fs : List (Level × List Byte)} {f : State → Result × State} {s : State}
    (h : RunsFrames fs f s) (hne : fs ≠ []) (hwire : WireOnly s (f s).2) (hok : (f s).1 = .ok) :
    WentOn fs s (wireDone (f s)) := by
  rw [wireDone_of_ok hok]
  exact ⟨h.trace_of_ok hok, h.high hne hok, hwire.busy, hwire.status, congrArg nextActivity hwire.activity⟩

theorem RunsFrames.returnedError {fs : List (Level × List Byte)} {f : State → Result × State} {s : State}
    {kind : ErrorKind} {c : Cause} (h : RunsFrames fs f s) (hwire : WireOnly s (f s).2) (herr : (f s).1 = .err kind c) :
    ReturnedError (windowOp s.activity) kind c (framesRun fs s.answerAt).1 s (wireDone (f s)) := by
  rw [wireDone_of_err herr, hwire.activity]
  exact endOp_returnedError (windowOp_cases _) herr h.trace

/-- A step appends the events of its frames, and then a return if it ends its operation. -/
theorem RunsFrames.wireDone_trace {fs : List (Level × List Byte)} {f : State → Result × State} {s : State}
    (h : RunsFrames fs f s) :
    ∃ rets, (∀ e ∈ rets, ∃ o r, e = Event.ret o r) ∧ rets.length ≤ 1 ∧
      (wireDone (f s)).trace = s.trace ++ (framesRun fs s.answerAt).1 ++ rets := by
  rcases wireDone_cases (f s) with ⟨a, hd⟩ | hd <;> rw [hd, ← h.trace]
  · exact ⟨[], by simp, by simp, (List.append_nil _).symm⟩
  · exact ⟨[.ret _ _], by simp, by simp, endOp_trace _ _⟩

theorem RunsFrames.fst_of_answersOk {fs : List (Level × List Byte)} {f : State → Result × State} {s : State}
    (h : RunsFrames fs f s) (hok : AnswersOk s (4 * fs.length)) : (f s).1 = .ok :=
  h.result.trans (framesRun_snd_eq_ok.2 hok)

/-! ## What a step leaves alone (R151 to R153) -/

/-- What the window commands and SET_FULL_WINDOW leave unchanged: all but the wires, and the ghost state. -/
def KeepsBesideWindow (s t : State) : Prop :=
  KeepsBesideWire s t ∧ t.tix = s.tix ∧ t.pixcnt = s.pixcnt ∧ t.opc = s.opc ∧ t.data = s.data ∧ NothingNewKnown s t

/-- A step leaves alone what its commands, of which the table of writers names only the wires, left alone. -/
theorem wireDone_keepsBesideWindow {s : State} {p : Result × State} (hwire : WireOnly s p.2)
    (h : ChangesOnly [.wires] s p.2) : KeepsBesideWindow s (wireDone p) := by
  rcases wireDone_cases p with ⟨a, hd⟩ | hd <;> rw [hd] <;>
    exact ⟨⟨⟨hwire.cfg, hwire.requests, hwire.refusals⟩, hwire.rst, hwire.bl, hwire.color, hwire.duty⟩, hwire.tix,
      (h.regs .pixcnt).resolve_left (by simp), hwire.opc, hwire.data, (h.regs .frame).resolve_left (by simp)⟩

/-- So does an operation, accepted in `s`, of such commands. -/
theorem endOp_keepsBesideWindow {s : State} {a : Activity} {p : Result × State} (hwire : WireOnly (s.begin a) p.2)
    (h : ChangesOnly [.wires] (s.begin a) p.2) (op : HostOp) : KeepsBesideWindow s (endOp op p) :=
  ⟨⟨⟨hwire.cfg, hwire.requests, hwire.refusals⟩, hwire.rst, hwire.bl, hwire.color, hwire.duty⟩, hwire.tix,
    (h.regs .pixcnt).resolve_left (by simp), hwire.opc, hwire.data, (h.regs .frame).resolve_left (by simp)⟩

/-! ## A command and its parameters (R151, R152) -/

@[simp] theorem noteSeen_dc (w : WindowSeen) (p : Result × State) : (noteSeen w p).2.dc = p.2.dc := by
  rcases p with ⟨_ | _, s⟩ <;> rfl

@[simp] theorem noteSeen_frameMem (w : WindowSeen) (p : Result × State) :
    (noteSeen w p).2.frameMem = p.2.frameMem := by
  rcases p with ⟨_ | _, s⟩ <;> rfl

/-- The form of the column step and of the row step: a command frame, then its parameters. -/
def parameterStep (w : WindowSeen) (op : Byte) (ps : List Byte) (s : State) : Result × State :=
  noteSeen w (attempt (commandFrame op) (dataFrame ps) s)

theorem columnStep_eq (s : State) :
    columnStep s =
      parameterStep (if s.cs = .high then .columns else .nothing) s.cfg.opCaset (columnParams s.cfg) s := rfl

theorem rowStep_eq (s : State) :
    rowStep s =
      parameterStep (if s.seen = .columns then .rows else .nothing) s.cfg.opPaset (rowParams s.cfg) s := rfl

theorem parameterStep_runs (w : WindowSeen) (op : Byte) (ps : List Byte) (s : State) :
    RunsFrames [(.low, [op]), (.high, ps)] (parameterStep w op ps) s :=
  ((commandFrame_runs op s).attempt (dataFrame_runs ps _) (by simp)).noteSeen w

theorem wireOnly_parameterStep (w : WindowSeen) (op : Byte) (ps : List Byte) (s : State) :
    WireOnly s (parameterStep w op ps s).2 :=
  (wireOnly_attempt (wireOnly_commandFrame op) (wireOnly_dataFrame ps) s).trans (wireOnly_noteSeen _ _)

theorem changesOnly_parameterStep (w : WindowSeen) (op : Byte) (ps : List Byte) (s : State) :
    ChangesOnly [.wires] s (parameterStep w op ps s).2 :=
  (changesOnly_commandThenData op ps s).trans (changesOnly_noteSeen _ _)

/-- The parameters' DC write is the last. -/
theorem parameterStep_dc_of_ok {w : WindowSeen} {op : Byte} {ps : List Byte} {s : State}
    (h : (parameterStep w op ps s).1 = .ok) : (parameterStep w op ps s).2.dc = .high := by
  rw [parameterStep, noteSeen_fst] at h
  obtain ⟨-, hdata, ha⟩ := attempt_fst_ok h
  have hdone := dataFrame_done ps (commandFrame op s).2
  rw [hdone.result] at hdata
  rw [parameterStep, noteSeen_dc, ha, hdone.dc, frameRun_snd_eq_ok.1 hdata 0 (by decide), levelAfter_ok]

/-- Log 16: with CS high before, a window command and its parameters leave FRAME as known, unless the command is also
the one that starts the pixel mode. -/
theorem parameterStep_frameMem_of_ok {w : WindowSeen} {op : Byte} {ps : List Byte} {s : State}
    (h : (parameterStep w op ps s).1 = .ok) (hcs : s.cs = .high) (hop : isWindowCommand s.cfg op = true)
    (hne : op ≠ s.cfg.opRamwr) : (parameterStep w op ps s).2.frameMem = s.frameMem := by
  rw [parameterStep, noteSeen_fst] at h
  obtain ⟨hcommand, -, ha⟩ := attempt_fst_ok h
  have hstream : (commandFrame op s).2.stream = false := by simp [commandFrame_stream, hne]
  rw [parameterStep, noteSeen_frameMem, ha,
    dataFrame_frameMem_of_not_stream ps _ hstream ((commandFrame_runs op s).high (by simp) hcommand),
    commandFrame_frameMem_of_ok hcs hcommand hop]

/-- R151, R152: on success the eight events and the next stage of the window body, on an error its return; what stays
as it was in either case. -/
theorem wireDone_parameterStep (w : WindowSeen) {op : Byte} (ps : List Byte) (s : State) (st : WindowStage)
    (hop : isWindowCommand s.cfg op = true) (hne : s.cfg.opcodesDistinct = true → op ≠ s.cfg.opRamwr) :
    let t := wireDone (parameterStep w op ps s)
    let run := framesRun [(.low, [op]), (.high, ps)] s.answerAt
    (run.2 = .ok →
      t.trace = s.trace ++ frameEvents .low [op] ++ frameEvents .high ps ∧ t.dc = .high ∧ t.cs = .high ∧
      t.busy = s.busy ∧ t.status = s.status ∧ (s.activity = .window st → t.activity = .window (nextStage st)) ∧
      (s.activity = .clearing st → t.activity = .clearing (nextStage st)) ∧
      (s.cs = .high → s.cfg.opcodesDistinct = true → t.frameMem = s.frameMem)) ∧
    (∀ kind c, run.2 = .err kind c →
      t.trace = s.trace ++ run.1 ++ [.ret (windowOp s.activity) (.err kind c)] ∧ t.status = .err kind c ∧
      t.busy = false ∧ t.activity = .idle ∧ t.ctl = .unknown) ∧
    KeepsBesideWindow s t := by
  have hruns := parameterStep_runs w op ps s
  have hwire := wireOnly_parameterStep w op ps s
  refine ⟨fun hframes => ?success, fun kind c hframes => ?error,
    wireDone_keepsBesideWindow hwire (changesOnly_parameterStep w op ps s)⟩
  case success =>
    have hok := hruns.result.trans hframes
    have h := hruns.wentOn (by simp) hwire hok
    refine ⟨by rw [h.trace, List.append_assoc]; rfl, ?_, h.cs, h.busy, h.status, fun ha => by rw [h.activity, ha]; rfl,
      fun ha => by rw [h.activity, ha]; rfl, fun hcs hd => ?_⟩ <;> rw [wireDone_of_ok hok]
    · exact parameterStep_dc_of_ok hok
    · exact parameterStep_frameMem_of_ok hok hcs hop (hne hd)
  case error =>
    have h := hruns.returnedError hwire (hruns.result.trans hframes)
    exact ⟨h.trace, h.status, h.busy, h.activity, h.ctl⟩

/-! ## The three window commands as steps (R151 to R153) -/

/-- R159 (1): the last parameter byte is the number `n - 1`. -/
theorem lastCoordinate_toNat (n : PanelDim) : (lastCoordinate n).toNat = n.val - 1 := by
  have := n.property.2
  rw [lastCoordinate, BitVec.toNat_ofNat, Nat.mod_eq_of_lt (by omega)]

theorem opCaset_isWindowCommand (c : Config) : isWindowCommand c c.opCaset = true := by simp [isWindowCommand]
theorem opPaset_isWindowCommand (c : Config) : isWindowCommand c c.opPaset = true := by simp [isWindowCommand]
theorem opRamwr_isWindowCommand (c : Config) : isWindowCommand c c.opRamwr = true := by simp [isWindowCommand]

theorem opCaset_ne_opRamwr {c : Config} (h : c.opcodesDistinct = true) : c.opCaset ≠ c.opRamwr :=
  (of_decide_eq_true h).2.1

theorem opPaset_ne_opRamwr {c : Config} (h : c.opcodesDistinct = true) : c.opPaset ≠ c.opRamwr :=
  (of_decide_eq_true h).2.2

/-- Settles O21: the column step is a command and its parameters (`wireDone_parameterStep`). -/
theorem casetIsColumnStep : Obligations.CasetIsColumnStep := by
  unfold Obligations.CasetIsColumnStep
  exact fun s => ⟨_, lastCoordinate s.cfg.width, rfl, lastCoordinate_toNat _,
    wireDone_parameterStep _ (columnParams s.cfg) s .column (opCaset_isWindowCommand _) opCaset_ne_opRamwr⟩

/-- Settles O22: the row step is a command and its parameters (`wireDone_parameterStep`). -/
theorem pasetIsRowStep : Obligations.PasetIsRowStep := by
  unfold Obligations.PasetIsRowStep
  exact fun s => ⟨_, lastCoordinate s.cfg.height, rfl, lastCoordinate_toNat _,
    wireDone_parameterStep _ (rowParams s.cfg) s .row (opPaset_isWindowCommand _) opPaset_ne_opRamwr⟩

theorem memoryStep_dc_of_ok {s : State} (h : (memoryStep s).1 = .ok) : (memoryStep s).2.dc = .low := by
  rw [memoryStep_fst] at h
  rw [memoryStep, noteSeen_dc, (commandFrame_done _ s).dc, frameRun_snd_eq_ok.1 h 0 (by decide), levelAfter_ok]

theorem memoryStep_frameMem_of_ok {s : State} (h : (memoryStep s).1 = .ok) (hcs : s.cs = .high) :
    (memoryStep s).2.frameMem = s.frameMem := by
  rw [memoryStep, noteSeen_fst] at h
  rw [memoryStep, noteSeen_frameMem, commandFrame_frameMem_of_ok hcs h (opRamwr_isWindowCommand _)]

/-- Settles O23: the memory-write step runs its one frame (`memoryStep_runs`), and its result decides whether the window
body goes on (`RunsFrames.wentOn`) or its operation returns the error (`RunsFrames.returnedError`). -/
theorem ramwrIsMemoryWriteStep : Obligations.RamwrIsMemoryWriteStep := by
  unfold Obligations.RamwrIsMemoryWriteStep
  intro s
  have hruns := memoryStep_runs s
  have hwire := wireOnly_memoryStep s
  rw [← memoryStep_fst]
  refine ⟨_, rfl, fun hok => ?success, fun kind c herr => ?error,
    wireDone_keepsBesideWindow hwire (changesOnly_memoryStep s)⟩
  case success =>
    have h := hruns.wentOn (by simp) hwire hok
    refine ⟨h.trace, ?_, h.cs, ?_, h.busy, h.status, fun hcs => ?_, fun ha => by rw [h.activity, ha]; rfl,
      fun ha => by rw [h.activity, ha]; rfl⟩ <;> rw [wireDone_of_ok hok]
    · exact memoryStep_dc_of_ok hok
    · rw [memoryStep_stream, ← memoryStep_fst, hok, decide_eq_true rfl]
    · exact memoryStep_frameMem_of_ok hok hcs
  case error =>
    have h := hruns.returnedError hwire herr
    rw [framesRun_singleton] at h
    exact ⟨h.trace, h.status, h.busy, h.activity, h.ctl⟩

/-- Settles O24: each step appends the events of its frames and at most a return (`RunsFrames.wireDone_trace`), and with
good answers it succeeds (`RunsFrames.fst_of_answersOk`). -/
theorem windowCommandsSendTheirFrames : Obligations.WindowCommandsSendTheirFrames := by
  unfold Obligations.WindowCommandsSendTheirFrames
  intro s
  refine ⟨?caset, ?paset, ?ramwr⟩
  case caset =>
    have hruns := columnStep_runs s
    obtain ⟨rets, hrets, hone, htrace⟩ := hruns.wireDone_trace
    exact ⟨_, _, rets, rfl, lastCoordinate_toNat _, hrets, hone, htrace, fun hok =>
      (hruns.wentOn (by simp) (wireOnly_columnStep s) (hruns.fst_of_answersOk hok)).trace⟩
  case paset =>
    have hruns := rowStep_runs s
    obtain ⟨rets, hrets, hone, htrace⟩ := hruns.wireDone_trace
    exact ⟨_, _, rets, rfl, lastCoordinate_toNat _, hrets, hone, htrace, fun hok =>
      (hruns.wentOn (by simp) (wireOnly_rowStep s) (hruns.fst_of_answersOk hok)).trace⟩
  case ramwr =>
    have hruns := memoryStep_runs s
    obtain ⟨rets, hrets, hone, htrace⟩ := hruns.wireDone_trace
    refine ⟨_, rets, rfl, hrets, hone, htrace, fun hanswers => ?_⟩
    have hok := hruns.fst_of_answersOk hanswers
    have h := hruns.wentOn (by simp) (wireOnly_memoryStep s) hok
    refine ⟨?_, h.cs, h.trace⟩
    rw [wireDone_of_ok hok]
    exact memoryStep_dc_of_ok hok

/-! ## SET_FULL_WINDOW (R150) -/

theorem windowBody_dc_of_ok {s : State} (h : (windowBody s).1 = .ok) : (windowBody s).2.dc = .low := by
  obtain ⟨-, hrest, hw⟩ := attempt_fst_ok h
  obtain ⟨-, hmem, hr⟩ := attempt_fst_ok hrest
  rw [windowBody, hw, hr, memoryStep_dc_of_ok hmem]

/-- Log 16: a window body that succeeds, with CS high before and three different opcode bytes, leaves FRAME as known. -/
theorem windowBody_frameMem_of_ok {s : State} (h : (windowBody s).1 = .ok) (hcs : s.cs = .high)
    (hd : s.cfg.opcodesDistinct = true) : (windowBody s).2.frameMem = s.frameMem := by
  obtain ⟨hcol, hrest, hw⟩ := attempt_fst_ok h
  obtain ⟨hrow, hmem, hr⟩ := attempt_fst_ok hrest
  have hcs1 := (columnStep_runs s).high (by simp) hcol
  have hcs2 := (rowStep_runs (columnStep s).2).high (by simp) hrow
  have hd1 : (columnStep s).2.cfg.opcodesDistinct = true := (wireOnly_columnStep s).cfg ▸ hd
  rw [windowBody, hw, hr, memoryStep_frameMem_of_ok hmem hcs2]
  calc
    (rowStep (columnStep s).2).2.frameMem = (columnStep s).2.frameMem :=
      parameterStep_frameMem_of_ok hrow hcs1 (opPaset_isWindowCommand _) (opPaset_ne_opRamwr hd1)
    _ = s.frameMem := parameterStep_frameMem_of_ok hcol hcs (opCaset_isWindowCommand _) (opCaset_ne_opRamwr hd)

/-- Settles O25: the window body runs the five frames (`windowBody_runs`), and the operation returns its result. -/
theorem setFullWindowIsFiveFrames : Obligations.SetFullWindowIsFiveFrames := by
  unfold Obligations.SetFullWindowIsFiveFrames
  intro s
  let accepted : State := s.begin (.window .column)
  have hruns := windowBody_runs accepted
  have hwire := wireOnly_windowBody accepted
  refine ⟨_, rfl, ?trace, hruns.result, rfl, fun hanswers => ?success,
    fun hok hcs hd => windowBody_frameMem_of_ok (s := accepted) hok hcs hd,
    endOp_keepsBesideWindow hwire (changesOnly_windowBody accepted) _⟩
  case trace =>
    rw [endOp_trace, hruns.trace, hruns.result]
    rfl
  case success =>
    have hok : (windowBody accepted).1 = .ok := windowBody_fst_of_ok hanswers
    refine ⟨?_, rfl, hok, windowBody_dc_of_ok hok, hruns.high (by simp [windowFrames]) hok,
      windowBody_stream_of_ok hok⟩
    rw [endOp_trace, hruns.trace_of_ok hok, hok]
    rfl

/-! ## A data span by its answers (R100, R155) -/

@[simp] theorem noteData_fst (v : Level) (p : Result × State) : (noteData v p).1 = p.1 := rfl
@[simp] theorem noteData_trace (v : Level) (p : Result × State) : (noteData v p).2.trace = p.2.trace := rfl
@[simp] theorem noteData_cs (v : Level) (p : Result × State) : (noteData v p).2.cs = p.2.cs := rfl
@[simp] theorem noteData_dc (v : Level) (p : Result × State) : (noteData v p).2.dc = p.2.dc := rfl
@[simp] theorem noteData_pixcnt (v : Level) (p : Result × State) : (noteData v p).2.pixcnt = p.2.pixcnt := rfl

theorem closeSpan_cs (s : State) : (closeSpan s).2.cs = levelAfter (s.answerAt 0) s.cs .high := rfl
theorem closeSpan_dc (s : State) : (closeSpan s).2.dc = s.dc := rfl
theorem closeSpan_pixcnt (s : State) : (closeSpan s).2.pixcnt = s.pixcnt := rfl

/-- R100: the state after a data span's DC write. -/
def spanTagged (s : State) : State := (drive .dc .high { s with sent := [] }).2

/-- R100: the state after a data span's DC write and its CS-low write. -/
def spanOpened (s : State) : State := (openSpan (spanTagged s)).2

@[simp] theorem spanTagged_answerAt (s : State) (i : Nat) : (spanTagged s).answerAt i = s.answerAt (i + 1) :=
  drive_answerAt .dc .high { s with sent := [] } i

@[simp] theorem spanTagged_trace (s : State) :
    (spanTagged s).trace = s.trace ++ [.line .dc .high (lineAnswer (s.answerAt 0))] :=
  drive_trace .dc .high { s with sent := [] }

@[simp] theorem spanOpened_answerAt (s : State) (i : Nat) : (spanOpened s).answerAt i = s.answerAt (i + 2) := by
  rw [spanOpened, openSpan_answerAt, spanTagged_answerAt]

@[simp] theorem spanOpened_trace (s : State) :
    (spanOpened s).trace = s.trace ++
      [.line .dc .high (lineAnswer (s.answerAt 0)), .line .cs .low (lineAnswer (s.answerAt 1))] := by
  rw [spanOpened, openSpan_trace, spanTagged_trace, spanTagged_answerAt, List.append_assoc]
  rfl

theorem spanOpened_dc {s : State} (h : s.answerAt 0 = .ok) : (spanOpened s).dc = .high := by
  change levelAfter (s.answerAt 0) s.dc .high = .high
  rw [h, levelAfter_ok]

/-- R155 (2): after a failed DC write nothing further is done. -/
theorem dataSpan_of_dc_failed {s : State} {k : Nat} {b : Bool} {c : Cause} (h : s.answerAt 0 = .fail k b c)
    (body : State → Result × State) : dataSpan body s = noteData s.cs (.err .gpio c, spanTagged s) := by
  have hdc : (drive .dc .high { s with sent := [] }).1 = .err .gpio c := congrArg lineResult h
  rw [dataSpan, tagged, attempt_err hdc, ← hdc]
  rfl

theorem dataSpan_of_dc_ok {s : State} (h : s.answerAt 0 = .ok) (body : State → Result × State) :
    dataSpan body s = noteData s.cs (span body (spanTagged s)) := by
  have hdc : (drive .dc .high { s with sent := [] }).1 = .ok := congrArg lineResult h
  rw [dataSpan, tagged, attempt_ok hdc]
  rfl

/-- R155 (3): after a failed CS-low write the release is issued, and its own error is dropped. -/
theorem dataSpan_of_open_failed {s : State} {k : Nat} {b : Bool} {c : Cause} (h0 : s.answerAt 0 = .ok)
    (h1 : s.answerAt 1 = .fail k b c) (body : State → Result × State) :
    dataSpan body s = noteData s.cs (.err .gpio c, (closeSpan (spanOpened s)).2) := by
  have hopen : (openSpan (spanTagged s)).1 = .err .gpio c := by
    rw [openSpan_fst, spanTagged_answerAt, h1, lineResult_fail]
  simp only [dataSpan_of_dc_ok h0, span, spanInside, hopen, firstError_err, spanOpened]

/-- R100: once the span is open its body runs, and the first error of the body and the release is the result. -/
theorem dataSpan_of_opened {s : State} (h : AnswersOk s 2) (body : State → Result × State) :
    dataSpan body s =
      noteData s.cs
        (firstError [(body (spanOpened s)).1, lineResult ((body (spanOpened s)).2.answerAt 0)],
          (closeSpan (body (spanOpened s)).2).2) := by
  have hopen : (openSpan (spanTagged s)).1 = .ok := by
    rw [openSpan_fst, spanTagged_answerAt, h 1 (by decide), lineResult_ok]
  simp only [dataSpan_of_dc_ok (h 0 (by decide)), span, spanInside, hopen, firstError_ok, spanOpened, closeSpan_fst]

/-! ## The bursts of the pixels (R154, R155) -/

/-- R154: from `s` to `t`, `n` pixels have gone out. -/
structure PixelsSent (color : Color) (n : Nat) (s t : State) : Prop where
  trace : t.trace = s.trace ++ List.replicate n (.tx (pix color) .ok)
  pixcnt : t.pixcnt = s.pixcnt + n
  dc : t.dc = s.dc
  answers : ∀ i, t.answerAt i = s.answerAt (i + n)

/-- R154: pixels whose bursts are answered `ok` go out, and those that follow are streamed from there. -/
theorem pixels_of_ok {color : Color} {n : Nat} {s : State} (h : AnswersOk s n) :
    PixelsSent color n s (pixels color n s).2 ∧
      ∀ m, pixels color (n + m) s = pixels color m (pixels color n s).2 := by
  induction n generalizing s with
  | zero => exact ⟨⟨(List.append_nil _).symm, rfl, rfl, fun _ => rfl⟩, fun m => by rw [Nat.zero_add]; rfl⟩
  | succ n ih =>
    have h0 : s.answerAt 0 = .ok := h 0 (Nat.succ_pos n)
    have hburst : (burst (pix color) s).1 = .ok := by rw [burst_fst, h0, burstResult_ok]
    have hrest : AnswersOk (burst (pix color) s).2.nextPixel n := fun i hi => by
      rw [answerAt_nextPixel, burst_answerAt]
      exact h (i + 1) (Nat.succ_lt_succ hi)
    obtain ⟨hsent, hadd⟩ := ih hrest
    have hfirst : ∀ m, pixels color (m + 1) s = pixels color m (burst (pix color) s).2.nextPixel :=
      fun m => attempt_ok hburst
    refine ⟨?_, fun m => by rw [Nat.succ_add, hfirst, hfirst, hadd]⟩
    rw [hfirst]
    constructor
    · rw [hsent.trace, trace_nextPixel, burst_trace, h0, burstAnswer_ok, List.append_assoc, List.replicate_succ]
      rfl
    · rw [hsent.pixcnt, nextPixel_pixcnt, Nat.add_assoc, Nat.add_comm 1]
      rfl
    · exact hsent.dc
    · intro i
      rw [hsent.answers, answerAt_nextPixel, burst_answerAt, Nat.add_assoc]

theorem pixels_fst_of_ok {color : Color} {n : Nat} {s : State} (h : AnswersOk s n) : (pixels color n s).1 = .ok := by
  have hadd := (pixels_of_ok (color := color) h).2 0
  rw [Nat.add_zero] at hadd
  rw [hadd]
  rfl

/-- R155 (4): a failed burst is the last. -/
theorem pixels_of_failed {color : Color} {p n k : Nat} {b : Bool} {c : Cause} {s : State} (hp : p < n)
    (h : AnswersOk s p) (hfail : s.answerAt p = .fail k b c) :
    pixels color n s = burst (pix color) (pixels color p s).2 := by
  obtain ⟨m, rfl⟩ : ∃ m, n = p + (m + 1) := ⟨n - p - 1, by omega⟩
  obtain ⟨hsent, hadd⟩ := pixels_of_ok (color := color) h
  have hburst : (burst (pix color) (pixels color p s).2).1 = .err .spi c := by
    rw [burst_fst, hsent.answers, Nat.zero_add, hfail, burstResult_fail]
  rw [hadd, pixels, attempt_err hburst]

/-! ## CLEAR up to its pixels (R154) -/

/-- R154: from `s` to `w` the window part of CLEAR has succeeded. -/
structure WindowSet (s w : State) : Prop where
  trace : w.trace = s.trace ++ windowEvents s.cfg
  answers : ∀ i, w.answerAt i = s.answerAt (i + 20)
  cfg : w.cfg = s.cfg
  cs : w.cs = .high

theorem clearBody_of_window_ok (color : Color) {s : State} (h : AnswersOk s 20) :
    WindowSet s (windowBody s).2 ∧ clearBody color s = pixelSpan color (windowBody s).2 := by
  have hruns := windowBody_runs s
  have hok := windowBody_fst_of_ok h
  exact ⟨⟨hruns.trace_of_ok hok, hruns.rest hok, (wireOnly_windowBody s).cfg, hruns.high (by simp [windowFrames]) hok⟩,
    attempt_ok hok⟩

/-- R154: from `s` to `e` the window part of CLEAR has succeeded, its pixel span is open, and no pixel is sent yet. -/
structure PixelsBegin (s e : State) : Prop where
  trace : e.trace = s.trace ++ (windowEvents s.cfg ++ [.line .dc .high .ok, .line .cs .low .ok])
  answers : ∀ i, e.answerAt i = s.answerAt (i + 22)
  pixcnt : e.pixcnt = 0
  dc : e.dc = .high

/-- R154: with 22 good answers CLEAR gets to its pixels; the first error of theirs and the release's is its result. -/
theorem clearBody_of_opened (color : Color) {s : State} (h : AnswersOk s 22) :
    ∃ e, PixelsBegin s e ∧
      clearBody color s =
        noteData .high
          (firstError [(pixels color (pixelCount s.cfg) e).1,
              lineResult ((pixels color (pixelCount s.cfg) e).2.answerAt 0)],
            (closeSpan (pixels color (pixelCount s.cfg) e).2).2) := by
  obtain ⟨hset, hclear⟩ := clearBody_of_window_ok color fun i hi => h i (by omega)
  generalize (windowBody s).2 = w at hset hclear
  have hanswers : AnswersOk w 2 := fun i hi => by
    rw [hset.answers]
    exact h _ (by omega)
  have h0 := hanswers 0 (by decide)
  refine ⟨{ spanOpened w with pixcnt := 0 }, ⟨?trace, fun i => ?answers, rfl, spanOpened_dc h0⟩, ?result⟩
  case trace =>
    change (spanOpened w).trace = _
    rw [spanOpened_trace, h0, hanswers 1 (by decide), hset.trace, List.append_assoc]
    rfl
  case answers =>
    change (spanOpened w).answerAt i = _
    rw [spanOpened_answerAt, hset.answers]
  case result =>
    rw [hclear, pixelSpan, dataSpan_of_opened hanswers, hset.cs, pixelStream, ← hset.cfg]
    rfl

/-! ## The failure paths of CLEAR (R155) -/

/-- R155 (1). -/
theorem clearBody_of_window_failed (color : Color) {s : State} {kind : ErrorKind} {c : Cause}
    (h : (framesRun (windowFrames s.cfg) s.answerAt).2 = .err kind c) :
    (clearBody color s).1 = .err kind c ∧
      (clearBody color s).2.trace = s.trace ++ (framesRun (windowFrames s.cfg) s.answerAt).1 := by
  have hruns := windowBody_runs s
  have herr : (windowBody s).1 = .err kind c := hruns.result.trans h
  rw [clearBody, attempt_err herr]
  exact ⟨herr, hruns.trace⟩

/-- R155 (2). -/
theorem clearBody_of_dc_failed (color : Color) {s : State} {k : Nat} {b : Bool} {c : Cause} (h : AnswersOk s 20)
    (hfail : s.answerAt 20 = .fail k b c) :
    (clearBody color s).1 = .err .gpio c ∧
      (clearBody color s).2.trace = s.trace ++ (windowEvents s.cfg ++ [.line .dc .high (.fail c)]) ∧
      (clearBody color s).2.cs = .high := by
  obtain ⟨hset, hclear⟩ := clearBody_of_window_ok color h
  have h0 := (hset.answers 0).trans hfail
  rw [hclear, pixelSpan, dataSpan_of_dc_failed h0]
  refine ⟨rfl, ?_, hset.cs⟩
  rw [noteData_trace, spanTagged_trace, h0, lineAnswer_fail, hset.trace, List.append_assoc]

/-- R155 (3). -/
theorem clearBody_of_open_failed (color : Color) {s : State} {k : Nat} {b : Bool} {c : Cause} (h : AnswersOk s 21)
    (hfail : s.answerAt 21 = .fail k b c) :
    (clearBody color s).1 = .err .gpio c ∧
      (clearBody color s).2.trace = s.trace ++ (windowEvents s.cfg ++
        [.line .dc .high .ok, .line .cs .low (.fail c), .line .cs .high (lineAnswer (s.answerAt 22))]) ∧
      (s.answerAt 22 = .ok → (clearBody color s).2.cs = .high) := by
  obtain ⟨hset, hclear⟩ := clearBody_of_window_ok color fun i hi => h i (by omega)
  have h0 := (hset.answers 0).trans (h 20 (by decide))
  have h1 := (hset.answers 1).trans hfail
  have h2 := hset.answers 2
  rw [hclear, pixelSpan, dataSpan_of_open_failed h0 h1]
  refine ⟨rfl, ?_, fun hok => ?_⟩
  · rw [noteData_trace, closeSpan_trace, spanOpened_trace, spanOpened_answerAt, h0, h1, h2, lineAnswer_fail,
      lineAnswer_ok, hset.trace]
    simp
  · rw [noteData_cs, closeSpan_cs, spanOpened_answerAt, h2, hok, levelAfter_ok]

/-- R154, R155: the events of CLEAR until `n` of its pixels have gone out. -/
def clearEvents (c : Config) (color : Color) (n : Nat) : List Event :=
  windowEvents c ++ [.line .dc .high .ok, .line .cs .low .ok] ++ List.replicate n (.tx (pix color) .ok)

theorem PixelsBegin.sent {color : Color} {n : Nat} {s e t : State} (h : PixelsBegin s e)
    (hsent : PixelsSent color n e t) :
    t.trace = s.trace ++ clearEvents s.cfg color n ∧ t.pixcnt = n ∧ t.dc = .high ∧
      ∀ i, t.answerAt i = s.answerAt (i + (22 + n)) := by
  refine ⟨?_, ?_, hsent.dc.trans h.dc, fun i => ?_⟩
  · rw [hsent.trace, h.trace, List.append_assoc, clearEvents]
  · rw [hsent.pixcnt, h.pixcnt, Nat.zero_add]
  · rw [hsent.answers, h.answers, Nat.add_assoc, Nat.add_comm n]

/-- R155 (4). -/
theorem clearBody_of_pixel_failed (color : Color) {s : State} {p k : Nat} {b : Bool} {c : Cause}
    (hp : p < pixelCount s.cfg) (h : AnswersOk s (22 + p)) (hfail : s.answerAt (22 + p) = .fail k b c) :
    (clearBody color s).1 = .err .spi c ∧
      (clearBody color s).2.trace = s.trace ++ (clearEvents s.cfg color p ++
        [.tx (pix color) (.fail (min k 2) c), .line .cs .high (lineAnswer (s.answerAt (23 + p)))]) ∧
      (clearBody color s).2.pixcnt = p ∧
      (s.answerAt (23 + p) = .ok → (clearBody color s).2.cs = .high) := by
  obtain ⟨e, hbegin, hclear⟩ := clearBody_of_opened color (s := s) fun i hi => h i (by omega)
  have hgood : AnswersOk e p := fun i hi => by
    rw [hbegin.answers]
    exact h _ (by omega)
  obtain ⟨htrace, hpixcnt, -, hanswers⟩ := hbegin.sent (pixels_of_ok (color := color) hgood).1
  have hfail' : e.answerAt p = .fail k b c := by rw [hbegin.answers, Nat.add_comm, hfail]
  rw [hclear, pixels_of_failed hp hgood hfail']
  generalize (pixels color p e).2 = u at htrace hpixcnt hanswers
  have h0 : u.answerAt 0 = .fail k b c := by rw [hanswers, Nat.zero_add, hfail]
  have h1 : u.answerAt 1 = s.answerAt (23 + p) := by
    rw [hanswers]
    congr 1
    omega
  refine ⟨?_, ?_, ?_, fun hok => ?_⟩
  · rw [noteData_fst, burst_fst, h0, burstResult_fail, firstError_err]
  · rw [noteData_trace, closeSpan_trace, burst_trace, burst_answerAt, h0, h1, burstAnswer_fail, htrace]
    simp [pix]
  · exact hpixcnt
  · rw [noteData_cs, closeSpan_cs, burst_answerAt, h1, hok, levelAfter_ok]

/-- R154, R155 (5): once all pixels have gone out, the release decides. -/
theorem clearBody_of_pixels_ok (color : Color) {s : State} (h : AnswersOk s (22 + pixelCount s.cfg)) :
    (clearBody color s).1 = lineResult (s.answerAt (22 + pixelCount s.cfg)) ∧
      (clearBody color s).2.trace = s.trace ++ (clearEvents s.cfg color (pixelCount s.cfg) ++
        [.line .cs .high (lineAnswer (s.answerAt (22 + pixelCount s.cfg)))]) ∧
      (clearBody color s).2.pixcnt = pixelCount s.cfg ∧ (clearBody color s).2.dc = .high ∧
      (s.answerAt (22 + pixelCount s.cfg) = .ok → (clearBody color s).2.cs = .high) := by
  obtain ⟨e, hbegin, hclear⟩ := clearBody_of_opened color (s := s) fun i hi => h i (by omega)
  have hgood : AnswersOk e (pixelCount s.cfg) := fun i hi => by
    rw [hbegin.answers]
    exact h _ (by omega)
  obtain ⟨htrace, hpixcnt, hdc, hanswers⟩ := hbegin.sent (pixels_of_ok (color := color) hgood).1
  have h0 := hanswers 0
  rw [Nat.zero_add] at h0
  rw [hclear, pixels_fst_of_ok hgood]
  refine ⟨?_, ?_, hpixcnt, hdc, fun hok => ?_⟩
  · rw [noteData_fst, h0]
    cases s.answerAt (22 + pixelCount s.cfg) <;> rfl
  · rw [noteData_trace, closeSpan_trace, htrace, h0, List.append_assoc]
  · rw [noteData_cs, closeSpan_cs, h0, hok, levelAfter_ok]

/-- Settles O27: in each case the body of CLEAR is known by its answers, and the operation returns its error
(`endOp_returnedError`). -/
theorem clearFailurePaths : Obligations.ClearFailurePaths := by
  unfold Obligations.ClearFailurePaths
  intro color s
  let accepted : State := { s.begin (.clearing .column) with color := color }
  refine ⟨endOp .clear (clearBody color accepted), rfl, fun kind c hframes => ?window, fun k b c hok hfail => ?dc,
    fun k b c hok hfail => ?opening, fun p k b c hp hok hfail => ?pixel, fun k b c hok hfail => ?release⟩
  case window =>
    obtain ⟨herr, htrace⟩ := clearBody_of_window_failed color (s := accepted) hframes
    have h := endOp_returnedError (s := s) (.inr rfl) herr htrace
    exact ⟨h.trace, h.status, h.ctl⟩
  case dc =>
    obtain ⟨herr, htrace, hcs⟩ := clearBody_of_dc_failed color (s := accepted) hok hfail
    have h := endOp_returnedError (s := s) (.inr rfl) herr htrace
    exact ⟨h.trace.trans (by simp only [List.append_assoc]; rfl), h.status, hcs, h.ctl⟩
  case opening =>
    obtain ⟨herr, htrace, hcs⟩ := clearBody_of_open_failed color (s := accepted) hok hfail
    have h := endOp_returnedError (s := s) (.inr rfl) herr htrace
    exact ⟨h.trace.trans (by simp only [List.append_assoc]; rfl), h.status, hcs, h.ctl⟩
  case pixel =>
    obtain ⟨herr, htrace, hpixcnt, hcs⟩ := clearBody_of_pixel_failed color (s := accepted) hp hok hfail
    have h := endOp_returnedError (s := s) (.inr rfl) herr htrace
    exact ⟨h.trace.trans (by simp only [clearEvents, List.append_assoc]; rfl), hpixcnt, h.status, hcs, h.ctl⟩
  case release =>
    obtain ⟨herr, htrace, hpixcnt, -, -⟩ := clearBody_of_pixels_ok color (s := accepted) hok
    change accepted.answerAt (22 + pixelCount accepted.cfg) = _ at hfail
    rw [hfail] at herr htrace
    have h := endOp_returnedError (s := s) (.inr rfl) herr htrace
    exact ⟨h.trace.trans (by simp only [clearEvents, List.append_assoc]; rfl), hpixcnt, h.status, h.ctl⟩

/-! ## A CLEAR that succeeds (R154) -/

/-- Log 16, log 29: CLEAR places no byte at or past the end of the window's pixels. -/
theorem clearBody_read_past (color : Color) {s : State} (h : AnswersOk s (22 + pixelCount s.cfg)) {a : Nat} {y : Byte}
    (ha : frameBytes s.cfg ≤ a) (hr : Memory.read (clearBody color s).2.frameMem a = some y) :
    Memory.read s.frameMem a = some y := by
  obtain ⟨hset, hclear⟩ := clearBody_of_window_ok color fun i hi => h i (by omega)
  have hwindow : NothingNewKnown s (windowBody s).2 := ((changesOnly_windowBody s).regs .frame).resolve_left (by simp)
  refine hwindow a y ?_
  rw [hclear] at hr
  generalize (windowBody s).2 = w at hset hr
  have hsends : Sends (pixelBytes color (pixelCount s.cfg)) { w with sent := [] }
      (tagged .high (pixelStream color) w).2 := by
    refine tagged_sends (fun i hi => ?opening) fun u hu hanswers => ?pixels
    case opening =>
      rw [hset.answers]
      exact h _ (by omega)
    case pixels =>
      rw [← hset.cfg, ← hu]
      refine pixelStream_sends color fun i hi => ?_
      rw [hu, hset.cfg] at hi
      rw [hanswers, hset.answers]
      exact h _ (by omega)
  change Memory.read (frameAfter w.cs (tagged .high (pixelStream color) w).2) a = some y at hr
  rcases frameAfter_cases w.cs (tagged .high (pixelStream color) w).2 with hm | hm | ⟨-, hm⟩ <;> rw [hm] at hr
  · exact hsends.frameMem ▸ hr
  · cases hr
  · rw [hsends.frameMem, hsends.sent, List.append_nil, List.reverse_reverse] at hr
    exact Memory.read_of_read_stream (by rwa [pixelBytes_length]) hr

/-- Settles O26: the pixels go out and the release succeeds (`clearBody_of_pixels_ok`); the rest is what the wires leave
alone, and what the stream can place (`clearBody_read_past`). -/
theorem clearStreamsEveryPixel : Obligations.ClearStreamsEveryPixel := by
  unfold Obligations.ClearStreamsEveryPixel
  intro color s h
  let accepted : State := { s.begin (.clearing .column) with color := color }
  have hsent : AnswersOk accepted (22 + pixelCount s.cfg) := fun i hi => h i (by omega)
  have hrelease : accepted.answerAt (22 + pixelCount accepted.cfg) = .ok := h (22 + pixelCount s.cfg) (by omega)
  obtain ⟨hresult, htrace, hpixcnt, hdc, hcs⟩ := clearBody_of_pixels_ok color (s := accepted) hsent
  rw [hrelease] at hresult htrace
  have hwire := wireOnly_clearBody color accepted
  have hwindow : (windowBody accepted).1 = .ok := windowBody_fst_of_ok fun i hi => h i (by omega)
  refine ⟨endOp .clear (clearBody color accepted), rfl, ?trace, hpixcnt, hresult, rfl, hdc, hcs hrelease,
    (clearBody_stream color accepted).trans (windowBody_stream_of_ok hwindow), hwire.color, hwire.rst, hwire.bl,
    hwire.duty, hwire.tix, hwire.opc, hwire.data, ⟨hwire.cfg, hwire.requests, hwire.refusals⟩,
    fun a y ha hr => clearBody_read_past color (s := accepted) hsent ha hr⟩
  case trace =>
    rw [endOp_trace, htrace, hresult, ← pix_eq]
    simp only [clearEvents, List.append_assoc]
    rfl

/-! ## The counts of a CLEAR that succeeds (R157) -/

@[simp] theorem wireBytes_replicate_tx (n : Nat) (bs : List Byte) (es : List Event) :
    wireBytes (List.replicate n (.tx bs .ok) ++ es) = (List.replicate n bs).flatten ++ wireBytes es := by
  induction n with
  | zero => rfl
  | succ n ih => simp [List.replicate_succ, wireBytes, ih]

@[simp] theorem bursts_replicate_tx (n : Nat) (bs : List Byte) (es : List Event) :
    bursts (List.replicate n (.tx bs .ok) ++ es) = List.replicate n bs ++ bursts es := by
  induction n with
  | zero => rfl
  | succ n ih => simp [List.replicate_succ, bursts, ih]

@[simp] theorem csWrites_replicate_tx (n : Nat) (bs : List Byte) (es : List Event) :
    csWrites (List.replicate n (.tx bs .ok) ++ es) = csWrites es := by
  induction n with
  | zero => rfl
  | succ n ih => simp [List.replicate_succ, csWrites, ih]

@[simp] theorem dcWrites_replicate_tx (n : Nat) (bs : List Byte) (es : List Event) :
    dcWrites (List.replicate n (.tx bs .ok) ++ es) = dcWrites es := by
  induction n with
  | zero => rfl
  | succ n ih => simp [List.replicate_succ, dcWrites, ih]

/-- R6, R159 (2). -/
theorem pixelCount_le (c : Config) : pixelCount c ≤ 65536 :=
  Nat.mul_le_mul c.width.property.2 c.height.property.2

/-- Settles O28: the events are those of `clearStreamsEveryPixel`, of which the window's are counted one by one and the
pixels by their number. -/
theorem clearCounts : Obligations.ClearCounts := by
  unfold Obligations.ClearCounts
  intro color s h
  obtain ⟨t, hexec, htrace, -⟩ := clearStreamsEveryPixel color s h
  refine ⟨t, clearEvents s.cfg color (pixelCount s.cfg) ++ [.line .cs .high .ok], hexec, ?trace, ?events, ?bytes,
    ?bursts, ?cs, ?dc, pixelCount_le s.cfg⟩
  case trace => simp [htrace, clearEvents, pix_eq]
  case events => simp +arith [clearEvents, windowEvents, windowFrames, frameEvents]
  case bytes => simp +arith [clearEvents, windowEvents, windowFrames, frameEvents, wireBytes, pix]
  case bursts => simp +arith [clearEvents, windowEvents, windowFrames, frameEvents, bursts]
  case cs => simp [clearEvents, windowEvents, windowFrames, frameEvents, csWrites]
  case dc => simp [clearEvents, windowEvents, windowFrames, frameEvents, dcWrites]

/-! ## The operation under way decides nothing inside a step (log 7) -/

/-- A procedure that neither reads nor writes which operation is under way. -/
def IgnoresActivity (f : State → Result × State) : Prop :=
  ∀ (a : Activity) (s : State), f { s with activity := a } = ((f s).1, { (f s).2 with activity := a })

theorem IgnoresActivity.attempt {p k : State → Result × State} (hp : IgnoresActivity p) (hk : IgnoresActivity k) :
    IgnoresActivity (attempt p k) := by
  intro a s
  rw [Machine.attempt, Machine.attempt, hp a s]
  cases (p s).1 with
  | ok => exact hk a (p s).2
  | err kind c => rfl

theorem ignoresActivity_burst (bs : List Byte) : IgnoresActivity (burst bs) := fun _ _ => rfl

theorem IgnoresActivity.span {body : State → Result × State} (hbody : IgnoresActivity body) :
    IgnoresActivity (span body) := by
  intro a s
  have hopen : openSpan { s with activity := a } = ((openSpan s).1, { (openSpan s).2 with activity := a }) := rfl
  have hinside : spanInside body (openSpan { s with activity := a }) =
      ((spanInside body (openSpan s)).1, { (spanInside body (openSpan s)).2 with activity := a }) := by
    rw [hopen, spanInside, spanInside]
    cases (openSpan s).1 with
    | ok => exact hbody a _
    | err kind c => rfl
  simp only [Machine.span, hinside]
  rfl

theorem IgnoresActivity.tagged {body : State → Result × State} (hbody : IgnoresActivity body) (dc : Level) :
    IgnoresActivity (tagged dc body) := by
  have hspan : IgnoresActivity (Machine.attempt (drive .dc dc) (Machine.span body)) :=
    IgnoresActivity.attempt (fun _ _ => rfl) hbody.span
  exact fun a s => hspan a { s with sent := [] }

theorem IgnoresActivity.dataSpan {body : State → Result × State} (hbody : IgnoresActivity body) :
    IgnoresActivity (dataSpan body) := by
  intro a s
  rw [Machine.dataSpan, Machine.dataSpan, hbody.tagged .high a s]
  rfl

theorem ignoresActivity_commandFrame (op : Byte) : IgnoresActivity (commandFrame op) := by
  intro a s
  rw [commandFrame, commandFrame, frame, frame, (ignoresActivity_burst [op]).tagged .low a s]
  rfl

theorem IgnoresActivity.noteSeen {f : State → Result × State} (hf : IgnoresActivity f) (w : WindowSeen) :
    IgnoresActivity fun s => noteSeen w (f s) := by
  intro a s
  simp only [hf a s, Machine.noteSeen]
  cases (f s).1 <;> rfl

theorem ignoresActivity_rowStep : IgnoresActivity rowStep := fun a s =>
  (((ignoresActivity_commandFrame _).attempt (ignoresActivity_burst _).dataSpan).noteSeen _) a s

theorem ignoresActivity_memoryStep : IgnoresActivity memoryStep := fun a s =>
  ((ignoresActivity_commandFrame _).noteSeen _) a s

theorem ignoresActivity_pixels (color : Color) (n : Nat) : IgnoresActivity (pixels color n) := by
  induction n with
  | zero => exact fun _ _ => rfl
  | succ n ih => exact (ignoresActivity_burst _).attempt fun a s => ih a s.nextPixel

theorem ignoresActivity_pixelSpan (color : Color) : IgnoresActivity (pixelSpan color) :=
  IgnoresActivity.dataSpan fun a s => ignoresActivity_pixels color (pixelCount s.cfg) a { s with pixcnt := 0 }

/-- What an operation leaves does not depend on the stage at which a part of its body was begun. -/
theorem IgnoresActivity.endOp_eq {f : State → Result × State} (hf : IgnoresActivity f) (op : HostOp) (a : Activity)
    (s : State) : endOp op (f { s with activity := a }) = endOp op (f s) := by
  rw [hf a s]
  rfl

/-! ## The walk of the window body (R88, R150, R154) -/

/-- From `s`, at a stage of its window body, the operation `op` is under way, which at the end of the body still has
`last` to do; the host presents nothing. -/
structure Inside (op : HostOp) (last : State → Result × State) (st : WindowStage) (s : State) : Prop where
  busy : s.busy = true
  requests : s.env.requests = []
  activity : (s.activity = .window st ∧ op = .setFullWindow ∧ last = fun u => (.ok, u)) ∨
    (s.activity = .clearing st ∧ op = .clear ∧ last = pixelSpan s.color)

namespace Inside

variable {op : HostOp} {last : State → Result × State} {st : WindowStage} {s : State}

theorem windowOp_eq (h : Inside op last st s) : windowOp s.activity = op := by
  rcases h.activity with ⟨ha, rfl, -⟩ | ⟨ha, rfl, -⟩ <;> rw [ha] <;> rfl

theorem fetch_eq (h : Inside op last st s) : fetch s = fetchStage st s :=
  fetch_of_stage h.busy (h.activity.imp And.left And.left)

theorem finish_eq (h : Inside op last st s) : finish s = endOp op (last s) := by
  rcases h.activity with ⟨ha, rfl, rfl⟩ | ⟨ha, rfl, rfl⟩ <;> rw [finish, ha]

theorem ignoresActivity_last (h : Inside op last st s) : IgnoresActivity last := by
  rcases h.activity with ⟨-, -, rfl⟩ | ⟨-, -, rfl⟩
  · exact fun _ _ => rfl
  · exact ignoresActivity_pixelSpan _

/-- A step that succeeded leads to the next stage. -/
theorem next (h : Inside op last st s) {p : Result × State} (hwire : WireOnly s p.2) (hok : p.1 = .ok) :
    Inside op last (nextStage st) (wireDone p) := by
  rw [wireDone_of_ok hok, hwire.activity]
  refine ⟨hwire.busy.trans h.busy, hwire.requests.trans h.requests, ?_⟩
  rcases h.activity with ⟨ha, hop, hlast⟩ | ⟨ha, hop, hlast⟩ <;> rw [ha]
  · exact .inl ⟨rfl, hop, hlast⟩
  · exact .inr ⟨rfl, hop, hlast.trans (congrArg pixelSpan hwire.color.symm)⟩

/-- R150: a step `f` of the window body, and after it, if it succeeded, the steps for the rest `k` of the operation. -/
theorem run_succ {f k : State → Result × State} {n : Nat} (h : Inside op last st s)
    (hstep : step s = .next (wireDone (f s))) (hwire : WireOnly s (f s).2) (hk : IgnoresActivity k)
    (hrest : ∀ u, Inside op last (nextStage st) u → Host.Core.run core n u = .next (endOp op (k u))) :
    Host.Core.run core (n + 1) s = .next (endOp op (attempt f k s)) := by
  rw [run_succ_of_step hstep]
  rcases attempt_cases f k s with ⟨hok, ha⟩ | ⟨⟨kind, c, herr⟩, ha⟩ <;> rw [ha]
  · rw [hrest _ (h.next hwire hok), wireDone_of_ok hok, hk.endOp_eq]
  · rw [wireDone_of_err herr, hwire.activity, h.windowOp_eq]
    exact run_of_waiting (endOp_busy _ _) (hwire.requests.trans h.requests) n

theorem run_close (h : Inside op last .close s) : Host.Core.run core 1 s = .next (endOp op (last s)) := by
  rw [run_succ_of_step (step_of_finish h.fetch_eq), h.finish_eq]
  rfl

theorem run_memory (h : Inside op last .memory s) :
    Host.Core.run core 2 s = .next (endOp op (attempt memoryStep last s)) :=
  h.run_succ (step_of_run h.fetch_eq) (wireOnly_memoryStep s) h.ignoresActivity_last fun _ => run_close

theorem run_row (h : Inside op last .row s) :
    Host.Core.run core 3 s = .next (endOp op (attempt rowStep (attempt memoryStep last) s)) :=
  h.run_succ (step_of_run h.fetch_eq) (wireOnly_rowStep s) (ignoresActivity_memoryStep.attempt h.ignoresActivity_last)
    fun _ => run_memory

/-- R150, R154: from the column step, four steps run the whole window body and what is left to do after it. -/
theorem run_column (h : Inside op last .column s) :
    Host.Core.run core 4 s = .next (endOp op (attempt windowBody last s)) := by
  have hassoc : attempt windowBody last s = attempt columnStep (attempt rowStep (attempt memoryStep last)) s := by
    rw [windowBody, attempt_assoc, funext (attempt_assoc rowStep memoryStep last)]
  rw [hassoc]
  exact h.run_succ (step_of_run h.fetch_eq) (wireOnly_columnStep s)
    (ignoresActivity_rowStep.attempt (ignoresActivity_memoryStep.attempt h.ignoresActivity_last)) fun _ => run_row

end Inside

/-- R12: after a procedure there may be nothing left to do. -/
theorem attempt_nothing (p : State → Result × State) (s : State) : attempt p (fun u => (.ok, u)) s = p s := by
  rcases attempt_cases p (fun u => (.ok, u)) s with ⟨hok, ha⟩ | ⟨-, ha⟩ <;> rw [ha]
  rw [← hok]

/-- Settles O42: both operations are the walk from the column step (`Inside.run_column`), SET_FULL_WINDOW with nothing
to do after the window body, CLEAR with its pixel span. -/
theorem windowOperationsAreTheirSteps : Obligations.WindowOperationsAreTheirSteps := by
  unfold Obligations.WindowOperationsAreTheirSteps
  refine fun s hr => ⟨?setFullWindow, fun color => ?clear⟩
  case setFullWindow =>
    calc
      _ = .next (endOp .setFullWindow (attempt windowBody (fun u => (.ok, u)) (s.begin (.window .column)))) :=
        Inside.run_column (s := s.begin (.window .column)) ⟨rfl, hr, .inl ⟨rfl, rfl, rfl⟩⟩
      _ = exec .setFullWindow s := by rw [attempt_nothing]; rfl
  case clear => exact Inside.run_column ⟨rfl, hr, .inr ⟨rfl, rfl, rfl⟩⟩

end Sys2Proof.Machine

/-! Proofs of the statements of spec/44_backlight.md: what SET_BACKLIGHT does and leaves alone (R180). -/

namespace Sys2Proof.Machine

/-- R180: a duty of at most `DUTY_W` bits passes the instruction's own check, and the operation forwards it and ends
with Ok. -/
theorem exec_setBacklight_of_fits {d : Nat} {s : State} (hd : d < 2 ^ s.cfg.dutyW.val) :
    exec (.setBacklight d) s = .next (endOp .setBacklight (.ok, setDuty d { s.begin .idle with duty := d })) :=
  if_pos hd

/-- Settles O29: the next state is known (`exec_setBacklight_of_fits`); its two events are those of forwarding the duty
and of ending the operation, neither of which writes the rest. -/
theorem setBacklightForwardsDuty : Obligations.SetBacklightForwardsDuty := by
  unfold Obligations.SetBacklightForwardsDuty
  intro d s hd
  refine ⟨_, exec_setBacklight_of_fits hd, ?trace, rfl, endOp_status _ _, endOp_busy _ _, ?frame⟩
  case trace =>
    rw [endOp_trace, setDuty_trace, List.append_assoc]
    rfl
  case frame => exact ⟨rfl, rfl, rfl, rfl, rfl, rfl, rfl, rfl, rfl, rfl, rfl, rfl, rfl, rfl⟩

end Sys2Proof.Machine

/-! Proofs of the statements of spec/60_exceptions.md: the coding of STATUS (R195), which error an operation reports
(R197, R198), and what it makes of the error's kind and cause (R193, R194). -/

namespace Sys2Proof.Machine

/-! ## The coding of STATUS (R195) -/

/-- Settles O50, by the two fields of each of the four results. -/
theorem statusCoding : Obligations.StatusCoding := by
  unfold Obligations.StatusCoding
  intro s
  refine ⟨fun h => ?ok, fun c h => ?spi, fun c h => ?gpio, fun c h => ?delay⟩ <;>
    simp [State.statusCode, h, Result.errorBit, Result.kindField, ErrorKind.code]

/-! ## A host operation is a body and its end (R65, R198) -/

/-- R246: what a table's entries issue at most, counted by their kinds. -/
theorem entriesBound_eq (t : List CommandEntry) :
    entriesBound t = 8 * commandCount t + (t.length - commandCount t) := by
  induction t with
  | nil => rfl
  | cons e es ih =>
    have hle : commandCount es ≤ es.length := List.countP_le_length
    rw [commandCount_cons, List.length_cons]
    cases e with
    | command op ps =>
      rw [entriesBound, ih, show commandCount [.command op ps] = 1 from rfl]
      omega
    | delay n =>
      rw [entriesBound, ih, show commandCount [.delay n] = 0 from rfl]
      omega

/-- R11: forwarding a duty appends its one event, and never fails. -/
theorem appends_setDuty (d : Nat) :
    AppendsAlways (.between none) (.between none) (fun _ => 1) fun s => (.ok, setDuty d s) :=
  fun _ _ s s' _ ha =>
    ⟨[.blset d], setDuty_trace d s, setDuty_trace d s', rfl, ha.mono (Nat.le_add_left _ _), rfl, rfl, rfl, rfl,
      Nat.le_refl _, rfl⟩

/-- R198, R246: the instruction `i` runs the body `f`, which appends at most the events that the rule of the operation
`op` bounds, and ends `op` with the body's result; only a duty of too many bits is refused (R84). -/
structure IsOperation (op : HostOp) (i : Instr) (f : State → Result × State) : Prop where
  appends : AppendsAlways (.between none) (.between none) (fun c => primitiveBound c op) f
  ends : ∀ s t, exec i s = .next t → t = endOp op (f s) ∨ (¬ DutyFits s.cfg i ∧ t = s.refuseRequest)

theorem IsOperation.ends_of_fits {op : HostOp} {i : Instr} {f : State → Result × State} (hf : IsOperation op i f)
    {s t : State} (hfits : DutyFits s.cfg i) (h : exec i s = .next t) : t = endOp op (f s) :=
  (hf.ends s t h).resolve_right fun hrefused => hrefused.1 hfits

/-- An instruction that is never refused, and runs `g` once it has been accepted and its operand latched by `u`. -/
theorem IsOperation.ofBody {op : HostOp} {i : Instr} {g : State → Result × State} {u : State → State}
    (hg : AppendsAlways (.between none) (.between none) (fun c => primitiveBound c op) g)
    (hexec : ∀ s, exec i s = .next (endOp op (g (u s)))) (hlog : ∀ s, (u s).log = s.log := by intro; rfl)
    (henv : ∀ s, (u s).env = s.env := by intro; rfl) (hcfg : ∀ s, (u s).cfg = s.cfg := by intro; rfl) :
    IsOperation op i fun s => g (u s) where
  appends := hg.comp hlog henv hcfg
  ends s t h := by
    rw [hexec] at h
    cases h
    exact .inl rfl

/-- R180, R84: SET_BACKLIGHT checks its operand. -/
theorem isOperation_setBacklight (d : Nat) :
    IsOperation .setBacklight (.setBacklight d) fun s => (.ok, setDuty d { s.begin .idle with duty := d }) where
  appends := (appends_setDuty d).comp (u := fun s => { s.begin .idle with duty := d }) (fun _ => rfl) (fun _ => rfl)
    fun _ => rfl
  ends s t h := by
    by_cases hd : d < 2 ^ s.cfg.dutyW.val
    · rw [exec_setBacklight_of_fits hd] at h
      cases h
      exact .inl rfl
    · rw [overwideDutyRefused d s hd] at h
      cases h
      exact .inr ⟨fun hfits => hd (hfits d rfl), rfl⟩

theorem appends_noteReset_resetBody :
    AppendsAlways (.between none) (.between none) (fun _ => 6) fun s => noteReset (resetBody s) :=
  appends_resetBody.congr (fun _ => rfl) (fun _ => rfl) (fun _ => rfl) fun _ => rfl

/-- Every host operation is a body and its end. -/
theorem exists_isOperation {i : Instr} {op : HostOp} (hop : hostOpOf i = some op) : ∃ f, IsOperation op i f := by
  cases i <;> cases hop
  case sendCommand o =>
    exact ⟨_, .ofBody (u := fun s => { s.begin .idle with opc := o }) (appends_commandFrame o) fun _ => rfl⟩
  case sendData bs =>
    exact ⟨_, .ofBody (u := fun s => { s.begin .idle with data := bs }) (appends_dataFrame bs) fun _ => rfl⟩
  case reset => exact ⟨_, .ofBody (u := fun s => s.begin .idle) appends_noteReset_resetBody fun _ => rfl⟩
  case initializePanel =>
    have hbody := appends_initBody.mono fun c => Nat.le_of_eq (entriesBound_eq c.initTable)
    exact ⟨_, .ofBody (u := fun s => s.begin .replay) hbody fun _ => rfl⟩
  case setFullWindow =>
    exact ⟨_, .ofBody (u := fun s => s.begin (.window .column)) appends_windowBody fun _ => rfl⟩
  case clear color =>
    exact ⟨_, .ofBody (u := fun s => { s.begin (.clearing .column) with color := color }) (appends_clearBody color)
      fun _ => rfl⟩
  case setBacklight d => exact ⟨_, isOperation_setBacklight d⟩

/-! ## The first error is reported, whatever its cause (R194, R197, R198) -/

/-- Settles O33: the body's result is the first failure among its events (`exists_isOperation`), and the end of the
operation writes it to STATUS and into the return. -/
theorem firstErrorIsReported : Obligations.FirstErrorIsReported := by
  unfold Obligations.FirstErrorIsReported
  intro i op s t hop hfits h
  obtain ⟨f, hf⟩ := exists_isOperation hop
  obtain ⟨es, htrace, -, -, hfirst, -⟩ := hf.appends.alone s
  rw [hf.ends_of_fits hfits h]
  refine ⟨es, ?_, hfirst.symm, rfl, rfl⟩
  rw [endOp_trace, htrace, endOp_status]

/-- Settles O51: the body appends the same events up to the renaming of causes (`exists_isOperation`), and so does the
end of the operation, which appends the body's result. -/
theorem operationsNeverInspectCauses : Obligations.OperationsNeverInspectCauses := by
  unfold Obligations.OperationsNeverInspectCauses
  intro ρ i op s s' t t' hop hfits hcfg hanswers h h'
  obtain ⟨f, hf⟩ := exists_isOperation hop
  obtain ⟨es, htrace, htrace', hresult, -⟩ := hf.appends ρ 0 s s' hcfg hanswers
  rw [hf.ends_of_fits hfits h, hf.ends_of_fits (hcfg ▸ hfits) h']
  refine ⟨es ++ [.ret op (f s).1], ?_, ?_, hresult⟩
  · rw [endOp_trace, htrace, List.append_assoc]
  · rw [endOp_trace, htrace', hresult, List.map_append, List.append_assoc]
    rfl

/-! ## DelayError is never raised (R193) -/

/-- R9, R10: only line writes and bursts fail, with their own kinds. -/
theorem firstFailure_ne_delay (es : List Event) (c : Cause) : firstFailure es ≠ .err .delay c := by
  induction es with
  | nil => exact nofun
  | cons e es ih => rcases e with ⟨l, v, _ | c'⟩ | ⟨bs, _ | ⟨k, c'⟩⟩ | _ | _ | _ <;> simp [firstFailure, ih]

/-- From `s` to `t` no DelayError has been written to STATUS or appended with a return. -/
structure RaisesNoDelayError (s t : State) : Prop where
  status : ∀ c, t.status = .err .delay c → s.status = .err .delay c
  trace : ∃ es, t.trace = s.trace ++ es ∧ ∀ op c, .ret op (.err .delay c) ∉ es

namespace RaisesNoDelayError

theorem ofEq {s t : State} (hlog : t.log = s.log) (hstatus : t.status = s.status) : RaisesNoDelayError s t where
  status c h := hstatus ▸ h
  trace := ⟨[], by rw [trace_eq_of_log hlog, List.append_nil], fun _ _ => List.not_mem_nil⟩

theorem trans {s t u : State} (h : RaisesNoDelayError s t) (h' : RaisesNoDelayError t u) : RaisesNoDelayError s u where
  status c hu := h.status c (h'.status c hu)
  trace := by
    obtain ⟨es, htrace, hes⟩ := h.trace
    obtain ⟨fs, htrace', hfs⟩ := h'.trace
    refine ⟨es ++ fs, by rw [htrace', htrace, List.append_assoc], fun op c hmem => ?_⟩
    exact (List.mem_append.1 hmem).elim (hes op c) (hfs op c)

section
variable {p q : WirePhase} {n : Config → Nat} {f : State → Result × State} (hf : AppendsAlways p q n f)
include hf

/-- The result of a body is a failure among its events, and none of its events is a return. -/
theorem endOp (op : HostOp) (s : State) : RaisesNoDelayError s (endOp op (f s)) := by
  obtain ⟨es, htrace, -, -, hfirst, -, hfree⟩ := hf.alone s
  have hresult : ∀ c, (f s).1 ≠ .err .delay c := hfirst ▸ firstFailure_ne_delay es
  refine ⟨fun c h => absurd h (hresult c), es ++ [.ret op (f s).1], ?_, fun o c hmem => ?_⟩
  · rw [endOp_trace, htrace, List.append_assoc]
  · rcases List.mem_append.1 hmem with hes | hret
    · exact not_mem_of_returnFree hfree o _ hes
    · injection List.mem_singleton.1 hret with _ hr
      exact hresult c hr.symm

/-- A body that leaves STATUS alone raises nothing. -/
theorem body {s : State} (hstatus : (f s).2.status = s.status) : RaisesNoDelayError s (f s).2 := by
  obtain ⟨es, htrace, -, -, -, -, hfree⟩ := hf.alone s
  exact ⟨fun c h => hstatus ▸ h, es, htrace, fun op _ => not_mem_of_returnFree hfree op _⟩

theorem wireDone {s : State} (hstatus : (f s).2.status = s.status) : RaisesNoDelayError s (wireDone (f s)) := by
  rcases wireDone_cases (f s) with ⟨a, h⟩ | h <;> rw [h]
  · exact (body hf hstatus).trans (ofEq rfl rfl)
  · exact endOp hf _ s

theorem entryDone {s : State} (hstatus : (f s).2.status = s.status) : RaisesNoDelayError s (entryDone (f s)) := by
  rcases entryDone_cases (f s) with h | h <;> rw [h]
  · exact (body hf hstatus).trans (ofEq rfl rfl)
  · exact endOp hf _ s

end

/-- The seven host operations end with their body's result (`exists_isOperation`); the entries and window commands end
their operation with it, or go on. -/
theorem exec {i : Instr} {s t : State} (h : exec i s = .next t) : RaisesNoDelayError s t := by
  cases hop : hostOpOf i with
  | some op =>
    obtain ⟨f, hf⟩ := exists_isOperation hop
    rcases hf.ends s t h with rfl | ⟨-, rfl⟩
    · exact endOp hf.appends op s
    · exact ofEq rfl rfl
  | none =>
    cases exec_is h <;> cases hop
    case tCommand.refl op ps => exact entryDone (appends_tCommandBody op ps) (entryBody_keeps (.command op ps) s).status
    case tDelay.refl n => exact entryDone (appends_tDelayBody n) rfl
    case caset.refl => exact wireDone appends_columnStep (wireOnly_columnStep s).status
    case paset.refl => exact wireDone appends_rowStep (wireOnly_rowStep s).status
    case ramwr.refl => exact wireDone appends_memoryStep (wireOnly_memoryStep s).status

/-- INITIALIZE and SET_FULL_WINDOW have nothing left to do but return Ok; CLEAR has its pixel span. -/
theorem finish (s : State) : RaisesNoDelayError s (finish s) := by
  rw [Machine.finish]
  cases s.activity with
  | idle => exact ofEq rfl rfl
  | replay => exact endOp (appends_nothing (.between none)) _ s
  | window st => exact endOp (appends_nothing (.between none)) _ s
  | clearing st => exact endOp (appends_pixelSpan s.color) _ s

end RaisesNoDelayError

/-- Settles O34: neither an instruction nor the end of an operation raises a DelayError
(`RaisesNoDelayError.exec`, `RaisesNoDelayError.finish`), and taking or refusing a request writes no STATUS and appends
no event. -/
theorem delayErrorNeverRaised : Obligations.DelayErrorNeverRaised := by
  unfold Obligations.DelayErrorNeverRaised
  intro s t c h
  have hnone : RaisesNoDelayError s t :=
    step_keeps (fun _ _ _ hexec hu => hu.trans (.exec hexec)) (fun _ hu => hu.trans (.ofEq rfl rfl))
      (fun _ hu => hu.trans (.ofEq rfl rfl)) (fun u hu => hu.trans (.finish u)) h (.ofEq rfl rfl)
  obtain ⟨es, htrace, hes⟩ := hnone.trace
  exact ⟨hnone.status c, es, htrace, fun op => hes op c⟩

end Sys2Proof.Machine

/-! Proofs of the statements of spec/70_reset_and_hazards.md: the sequencer reads no history (R238), every operation
issues boundedly many primitives (R246), and where the host's own pixels land (R240). -/

namespace Sys2Proof.Machine

/-! ## No history, and no more primitives than the rule bounds (R238, R246) -/

/-- Settles O35: the same answers are answers renamed by the identity, so that this is the case of `id` in what the
renaming of causes does (`operationsNeverInspectCauses`). -/
theorem operationsReadNoHistory : Obligations.OperationsReadNoHistory := by
  unfold Obligations.OperationsReadNoHistory
  intro i op s s' t t' hop hfits hcfg hanswers h h'
  obtain ⟨es, htrace, htrace', hstatus⟩ := operationsNeverInspectCauses id i op s s' t t' hop hfits hcfg
    (SameAnswers.of_eq hanswers) h h'
  rw [map_renameEvent_id] at htrace'
  rw [renameResult_id] at hstatus
  exact ⟨es, htrace, htrace', hstatus.symm⟩

/-- Settles O36: the body appends at most the events its rule bounds (`exists_isOperation`), and the end of the
operation appends the return alone. -/
theorem primitivesAreBounded : Obligations.PrimitivesAreBounded := by
  unfold Obligations.PrimitivesAreBounded
  intro i op s t hop hfits h
  obtain ⟨f, hf⟩ := exists_isOperation hop
  obtain ⟨es, htrace, -, -, -, hlength, -⟩ := hf.appends.alone s
  refine ⟨es, (f s).1, ?_, hlength⟩
  rw [hf.ends_of_fits hfits h, endOp_trace, htrace]

/-! ## The host's own pixels (R240) -/

/-- R240: from `s` to `t` a SET_FULL_WINDOW has succeeded, and the next data span's pixels land from (0,0) on in a FRAME
that is as known as before. -/
structure AwaitsPixels (s t : State) : Prop where
  answers : ∀ i, t.answerAt i = s.answerAt (i + 20)
  cfg : t.cfg = s.cfg
  cs : t.cs = .high
  stream : t.stream = true
  seen : t.seen = .origin
  frameMem : t.frameMem = s.frameMem

/-- R240, log 17: with good answers, SET_FULL_WINDOW of a Ready controller with CS high leaves it awaiting pixels. -/
theorem execSetFullWindow_awaitsPixels {s : State} (h : AnswersOk s 20) (hctl : s.ctl = .ready) (hcs : s.cs = .high)
    (hd : s.cfg.opcodesDistinct = true) : ∃ t, exec .setFullWindow s = .next t ∧ AwaitsPixels s t := by
  let accepted : State := s.begin (.window .column)
  have hruns := windowBody_runs accepted
  have hwire := wireOnly_windowBody accepted
  have hok : (windowBody accepted).1 = .ok := windowBody_fst_of_ok h
  have hready : ctlAfter .setFullWindow (windowBody accepted).1 (windowBody accepted).2.ctl = .ready := by
    rw [hok, hwire.ctl]
    exact hctl
  refine ⟨_, rfl, hruns.rest hok, hwire.cfg, hruns.high (by simp [windowFrames]) hok, windowBody_stream_of_ok hok,
    ?seen, windowBody_frameMem_of_ok (s := accepted) hok hcs hd⟩
  case seen =>
    rw [endOp_seen, hready, seenAfter, if_pos rfl]
    exact windowBody_seen_of_ok (s := accepted) hok hcs hctl

/-- R240: a data frame answered `ok` streams its bytes from (0,0) on, where pixels are awaited. -/
theorem AwaitsPixels.dataFrame_frameMem {s t : State} (ht : AwaitsPixels s t) {bs : List Byte} (h : AnswersOk t 3)
    (hlen : bs.length ≤ frameBytes s.cfg) : (dataFrame bs t).2.frameMem = Memory.stream s.frameMem bs := by
  rw [← ht.frameMem]
  refine dataSpan_frameMem (fun i hi => h i (by omega)) ht.cs ht.stream ht.seen (ht.cfg ▸ hlen) fun u _ hanswers => ?_
  exact burst_sends ((hanswers 0).trans (h 2 (by decide))) bs

/-- R53: the i-th pixel's two bytes are the bytes `2*i` and `2*i + 1` of FRAME. -/
theorem pixelAddress_of_index (c : Config) (i : Nat) : pixelAddress c (pixelColumn c i) (pixelRow c i) = 2 * i :=
  congrArg (2 * ·) (Nat.div_add_mod' i c.width.val)

/-- Streaming whole pixels gives each byte streamed its value. -/
theorem Memory.read_stream_of_getElem? (m : Memory) {bs : List Byte} (he : bs.length % 2 = 0) {a : Nat} {y : Byte}
    (h : bs[a]? = some y) : Memory.read (Memory.stream m bs) a = some y := by
  obtain ⟨ha, -⟩ := List.getElem?_eq_some_iff.1 h
  rw [Memory.read_stream_even m bs he, if_pos ha, h]

/-- Settles O40: after SET_FULL_WINDOW pixels are awaited (`execSetFullWindow_awaitsPixels`), so that SEND_DATA streams
its bytes from (0,0) on, two for each pixel in row-major order (`pixelAddress_of_index`), and leaves those past them. -/
theorem hostPixelsLandRowMajor : Obligations.HostPixelsLandRowMajor := by
  unfold Obligations.HostPixelsLandRowMajor
  intro bs s h hctl hcs hd heven hlen
  obtain ⟨t, hexec, ht⟩ := execSetFullWindow_awaitsPixels (fun i hi => h i (by omega)) hctl hcs hd
  let accepted : State := { t.begin .idle with data := bs }
  have haccepted : AwaitsPixels s accepted := ⟨ht.answers, ht.cfg, ht.cs, ht.stream, ht.seen, ht.frameMem⟩
  have hanswers : AnswersOk accepted 3 := fun i hi => (haccepted.answers i).trans (h (i + 20) (by omega))
  have hmem : (endOp .sendData (dataFrame bs accepted)).frameMem = Memory.stream s.frameMem bs :=
    haccepted.dataFrame_frameMem hanswers hlen
  refine ⟨t, _, hexec, rfl, fun i hi lo hhi hlo => ?pixel, fun a ha => ?past⟩
  case pixel =>
    rw [hmem, pixelAddress_of_index]
    exact ⟨Memory.read_stream_of_getElem? _ heven hhi, Memory.read_stream_of_getElem? _ heven hlo⟩
  case past => rw [hmem, Memory.read_stream_even _ _ heven, if_neg (Nat.not_lt.2 ha)]

end Sys2Proof.Machine

/-! Proofs of the statements about every step, the invariant of the state (R24, R29 to R32, R50, R193) and INV-CS (R39),
which both rest on the parts that all operations are made of; and of the success paths of SEND_COMMAND and SEND_DATA
(R101, R102) and the words written out (R73, R76). -/

namespace Sys2Proof.Machine

/-! ## What the parts of the operations keep, every step keeps -/

/-- `t` differs from `s` at most in STATUS, BUSY, TIX, BL, the lines DC and RST, the latches, the bytes of the current
span, the operation under way and the environment. -/
structure SameBesideLatches (s t : State) : Prop where
  cfg : t.cfg = s.cfg := by rfl
  cs : t.cs = s.cs := by rfl
  pixcnt : t.pixcnt = s.pixcnt := by rfl
  inflight : t.inflight = s.inflight := by rfl
  ctl : t.ctl = s.ctl := by rfl
  stream : t.stream = s.stream := by rfl
  seen : t.seen = s.seen := by rfl
  frameMem : t.frameMem = s.frameMem := by rfl
  log : t.log = s.log := by rfl

/-- Each part that the operations are made of relates the state before it to the state after it. -/
structure PartsKeep (R : State → State → Prop) : Prop where
  trans : ∀ {s t u}, R s t → R t u → R s u
  latches : ∀ {s t}, SameBesideLatches s t → R s t
  emit : ∀ e s, (∀ v a, e ≠ .line .cs v a) → R s (s.emit e)
  commandFrame : ∀ op s, R s (commandFrame op s).2
  dataFrame : ∀ bs s, R s (dataFrame bs s).2
  pixelSpan : ∀ color s, R s (pixelSpan color s).2
  noteSeen : ∀ {w}, w ≠ .origin → ∀ p, R p.2 (noteSeen w p).2
  memoryStep : ∀ s, R s (memoryStep s).2
  noteReset : ∀ p, R p.2 (noteReset p).2
  endOp : ∀ op p, R p.2 (endOp op p)

namespace PartsKeep

section
variable {R : State → State → Prop} (h : PartsKeep R)
include h

theorem attempt {p k : State → Result × State} (hp : ∀ s, R s (p s).2) (hk : ∀ s, R s (k s).2) :
    ∀ s, R s (attempt p k s).2 := attempt_rel (R := R) h.trans hp hk

theorem columnStep (s : State) : R s (columnStep s).2 :=
  h.trans (h.attempt (h.commandFrame _) (h.dataFrame _) s) (h.noteSeen (by split <;> nofun) _)

theorem rowStep (s : State) : R s (rowStep s).2 :=
  h.trans (h.attempt (h.commandFrame _) (h.dataFrame _) s) (h.noteSeen (by split <;> nofun) _)

theorem windowBody : ∀ s, R s (windowBody s).2 := h.attempt h.columnStep (h.attempt h.rowStep h.memoryStep)

theorem clearBody (color : Color) : ∀ s, R s (clearBody color s).2 := h.attempt h.windowBody (h.pixelSpan color)

theorem wait (n : Nat) (s : State) : R s (wait n s) := h.emit _ s nofun

theorem entryBody (e : CommandEntry) (s : State) : R s (entryBody e s).2 := by
  cases e with
  | command op ps =>
    exact h.trans (t := { s with opc := op, data := ps }) (h.latches {})
      (h.attempt (h.commandFrame op) (h.dataFrame ps) _)
  | delay n => exact h.wait n s

theorem replayList (es : List CommandEntry) (s : State) : R s (replayList es s).2 := by
  induction es generalizing s with
  | nil => exact h.latches {}
  | cons e es ih =>
    exact h.attempt (h.entryBody e) (fun u => h.trans (t := u.nextEntry) (h.latches {}) (ih _)) s

theorem initBody (s : State) : R s (initBody s).2 := by
  rw [initBody_eq]
  exact h.trans (t := { s with tix := 0 }) (h.latches {}) (h.replayList _ _)

theorem drive_rst (v : Level) (s : State) : R s (drive .rst v s).2 :=
  h.trans (t := (s.setLevel .rst _).draw) (h.latches {}) (h.emit _ _ nofun)

theorem resetPhase (v : Level) : ∀ s, R s (resetPhase v s).2 :=
  h.attempt (h.drive_rst v) fun s => h.wait (resetHoldMs s.cfg) s

theorem resetBody : ∀ s, R s (resetBody s).2 :=
  h.attempt (h.resetPhase .high) (h.attempt (h.resetPhase .low) (h.resetPhase .high))

theorem setDuty (d : Nat) (s : State) : R s (setDuty d s) :=
  h.trans (t := { s with bl := d }) (h.latches {}) (h.emit _ _ nofun)

theorem wireDone (p : Result × State) : R p.2 (wireDone p) := by
  rcases wireDone_cases p with ⟨a, hd⟩ | hd <;> rw [hd]
  · exact h.latches {}
  · exact h.endOp _ p

theorem entryDone (p : Result × State) : R p.2 (entryDone p) := by
  rcases entryDone_cases p with hd | hd <;> rw [hd]
  · exact h.latches {}
  · exact h.endOp _ p

/-- An operation, accepted in `s` and run from `u`. -/
theorem operation {f : State → Result × State} (hf : ∀ s, R s (f s).2) (op : HostOp) {s u : State}
    (hu : SameBesideLatches s u) : R s (Machine.endOp op (f u)) :=
  h.trans (h.trans (h.latches hu) (hf u)) (h.endOp op (f u))

theorem exec {i : Instr} {s t : State} (hexec : exec i s = .next t) : R s t := by
  cases exec_is hexec with
  | sendCommand op => exact h.operation (h.commandFrame op) _ {}
  | sendData bs => exact h.operation (h.dataFrame bs) _ {}
  | reset =>
    exact h.operation (f := fun u => Machine.noteReset (Machine.resetBody u))
      (fun u => h.trans (h.resetBody u) (h.noteReset _)) _ {}
  | initializePanel => exact h.operation h.initBody _ {}
  | setFullWindow => exact h.operation h.windowBody _ {}
  | clear color => exact h.operation (h.clearBody color) _ {}
  | setBacklight d => exact h.operation (f := fun u => (.ok, Machine.setDuty d u)) (h.setDuty d) _ {}
  | overwide d => exact h.latches {}
  | tCommand op ps => exact h.trans (h.entryBody (.command op ps) s) (h.entryDone _)
  | tDelay n => exact h.trans (h.entryBody (.delay n) s) (h.entryDone _)
  | caset => exact h.trans (h.columnStep s) (h.wireDone _)
  | paset => exact h.trans (h.rowStep s) (h.wireDone _)
  | ramwr => exact h.trans (h.memoryStep s) (h.wireDone _)

theorem finish (s : State) : R s (finish s) := by
  rw [Machine.finish]
  cases s.activity with
  | idle => exact h.latches {}
  | replay => exact h.endOp _ (.ok, s)
  | window st => exact h.endOp _ (.ok, s)
  | clearing st => exact h.trans (h.pixelSpan s.color s) (h.endOp _ _)

theorem step {s t : State} (hstep : step s = .next t) : R s t :=
  step_keeps (P := R s) (fun _ _ _ hexec hu => h.trans hu (h.exec hexec)) (fun _ hu => h.trans hu (h.latches {}))
    (fun _ hu => h.trans hu (h.latches {})) (fun u hu => h.trans hu (h.finish u)) hstep (h.latches {})

end

end PartsKeep

/-! ## INV-CS (R39, R32) -/

/-- An event that is no CS write neither makes CS known to be high nor spoils that. -/
theorem csTrusted_of_not_cs {e : Event} (he : ∀ v a, e ≠ .line .cs v a) (known : Bool) :
    csTrusted known [e] = known := by
  rcases e with ⟨_ | _ | _, v, a⟩ | _ | _ | _ | _
  case line.cs => exact absurd rfl (he v a)
  all_goals rfl

/-- From `s` to `t` CS has gone where the events appended say: where it was high if it was known to be, it is high if it
is known to be now (R39 b). A span that was not open is not left open. -/
structure CsFollows (s t : State) : Prop where
  closed : s.inflight = false → t.inflight = false
  events : ∃ es, t.trace = s.trace ++ es ∧
    ∀ known, (known = true → s.cs = .high) → csTrusted known es = true → t.cs = .high

namespace CsFollows

theorem trans {s t u : State} (h : CsFollows s t) (h' : CsFollows t u) : CsFollows s u where
  closed hs := h'.closed (h.closed hs)
  events := by
    obtain ⟨es, htrace, hes⟩ := h.events
    obtain ⟨fs, htrace', hfs⟩ := h'.events
    refine ⟨es ++ fs, by rw [htrace', htrace, List.append_assoc], fun known hknown htrusted => ?_⟩
    rw [csTrusted_append] at htrusted
    exact hfs _ (hes known hknown) htrusted

theorem ofEq {s t : State} (hcs : t.cs = s.cs) (hin : t.inflight = s.inflight) (hlog : t.log = s.log) :
    CsFollows s t where
  closed hs := hin.trans hs
  events := ⟨[], by rw [trace_eq_of_log hlog, List.append_nil], fun _ hknown htrusted => hcs.trans (hknown htrusted)⟩

/-- One event that is no CS write, and CS where it was. -/
theorem ofEvent {s t : State} {e : Event} (htrace : t.trace = s.trace ++ [e]) (he : ∀ v a, e ≠ .line .cs v a)
    (hcs : t.cs = s.cs) (hin : t.inflight = s.inflight) : CsFollows s t where
  closed hs := hin.trans hs
  events := ⟨[e], htrace, fun known hknown htrusted => hcs.trans (hknown (csTrusted_of_not_cs he known ▸ htrusted))⟩

theorem drive_dc (v : Level) (s : State) : CsFollows s (drive .dc v s).2 :=
  ofEvent (drive_trace .dc v s) nofun rfl rfl

/-- R100: a span ends with a release, whose answer alone decides whether CS is known to be high. -/
theorem span {dc : Level} {n : Config → Nat} {body : State → Result × State} (hb : SpanBody dc n body) (s : State) :
    CsFollows s (span body s).2 where
  closed _ := rfl
  events := by
    obtain ⟨-, fs, hinside, -⟩ :=
      appends_spanInside hb id 0 (s := (openSpan s).2) rfl (.of_eq fun _ => rfl) (openSpan s).1
    let inside : State := (spanInside body (openSpan s)).2
    refine ⟨.line .cs .low (lineAnswer (s.answerAt 0)) :: fs ++ [.line .cs .high (lineAnswer (inside.answerAt 0))],
      ?trace, fun known _ htrusted => ?cs⟩
    case trace =>
      rw [span_snd, closeSpan_trace, hinside, openSpan_trace, List.append_assoc s.trace, List.append_assoc s.trace]
      rfl
    case cs =>
      rw [span_snd, closeSpan_cs]
      rw [csTrusted_append] at htrusted
      cases hrelease : inside.answerAt 0 with
      | ok => rfl
      | fail k landed c =>
        rw [hrelease] at htrusted
        cases htrusted

theorem tagged {dc : Level} {n : Config → Nat} {body : State → Result × State} (hb : SpanBody dc n body) (s : State) :
    CsFollows s (tagged dc body s).2 :=
  trans (t := { s with sent := [] }) (ofEq rfl rfl rfl) (attempt_rel (R := CsFollows) trans (drive_dc dc) (span hb) _)

theorem noteSeen (w : WindowSeen) (p : Result × State) : CsFollows p.2 (noteSeen w p).2 := by
  rcases p with ⟨_ | _, s⟩ <;> exact ofEq rfl rfl rfl

theorem commandFrame (op : Byte) (s : State) : CsFollows s (commandFrame op s).2 :=
  (tagged (spanBody_opcode op) s).trans (ofEq rfl rfl rfl)

theorem partsKeep : PartsKeep CsFollows where
  trans := trans
  latches h := ofEq h.cs h.inflight h.log
  emit e s he := ofEvent (trace_emit s e) he rfl rfl
  commandFrame := commandFrame
  dataFrame bs s := (tagged (spanBody_burst bs) s).trans (ofEq rfl rfl rfl)
  pixelSpan color s := (tagged (spanBody_pixelStream color) s).trans (ofEq rfl rfl rfl)
  noteSeen _ := noteSeen _
  memoryStep s := (commandFrame _ s).trans (noteSeen _ _)
  noteReset _ := ofEq rfl rfl rfl
  endOp op p := ofEvent (endOp_trace op p) nofun rfl rfl

end CsFollows

/-- Settles O6: a step leaves CS where the events it appends say (`CsFollows.partsKeep`), and they are read on from what
the trace before said. -/
theorem chipSelectHighBetweenOperations : Obligations.ChipSelectHighBetweenOperations := by
  unfold Obligations.ChipSelectHighBetweenOperations
  intro s t hclosed hinv h
  have hfollows := CsFollows.partsKeep.step h
  obtain ⟨es, htrace, hcs⟩ := hfollows.events
  refine ⟨fun _ htrusted => hcs _ (hinv hclosed) ?_, hfollows.closed hclosed⟩
  rw [← csTrusted_append, ← htrace]
  exact htrusted

end Sys2Proof.Machine

namespace Sys2Proof.Machine

/-! ## The invariant: what is known of the panel (R31, R50, R240) -/

/-- Bytes known of the panel's memory: in canonical form, and inside the panel (R50, R60). -/
structure FitsPanel (c : Config) (m : Memory) : Prop where
  wf : Memory.wf m = true
  inside : ∀ a y, (a, y) ∈ m → a < frameBytes c

theorem FitsPanel.nil (c : Config) : FitsPanel c [] := ⟨rfl, fun _ _ => nofun⟩

theorem FitsPanel.stream {c : Config} {m : Memory} (h : FitsPanel c m) {bs : List Byte}
    (hlen : bs.length ≤ frameBytes c) : FitsPanel c (Memory.stream m bs) where
  wf := Memory.wf_stream bs h.wf
  inside a y hmem := (Memory.mem_stream hmem).elim (fun ha => Nat.lt_of_lt_of_le ha hlen) (h.inside a y)

/-- R53: bytes are placed only as far as the panel reaches. -/
theorem FitsPanel.frameAfter {s : State} (h : FitsPanel s.cfg s.frameMem) (csBefore : Level) :
    FitsPanel s.cfg (frameAfter csBefore s) := by
  rw [Machine.frameAfter]
  split_ifs with _ _ _ hroom
  · exact h
  · exact .nil _
  · exact h
  · exact h.stream (List.length_reverse.trans_le hroom.2)
  · exact .nil _

/-- The part of the invariant about the controller and what is sent to it: the bytes known of FRAME, `PIXCNT`, and where
pixels are taken to land. -/
structure PanelInv (s : State) : Prop where
  frameFits : FitsPanel s.cfg s.frameMem
  pixcntBound : s.pixcnt ≤ pixelCount s.cfg
  originSound : s.seen = .origin → s.stream = true ∧ s.ctl = .ready ∧ s.cs = .high

theorem StateInv.panelInv {s : State} (h : StateInv s) : PanelInv s :=
  ⟨⟨h.memoryWf, h.memoryInside⟩, h.pixcntBound, h.originSound⟩

/-- With the same constants, bytes of FRAME and `PIXCNT`, only where pixels land is left to be seen. -/
theorem PanelInv.congr {s t : State} (h : PanelInv s) (hcfg : t.cfg = s.cfg) (hmem : t.frameMem = s.frameMem)
    (hpixcnt : t.pixcnt = s.pixcnt) (horigin : t.seen = .origin → t.stream = true ∧ t.ctl = .ready ∧ t.cs = .high) :
    PanelInv t where
  frameFits := hcfg ▸ hmem ▸ h.frameFits
  pixcntBound := hcfg ▸ hpixcnt ▸ h.pixcntBound
  originSound := horigin

/-! ### Spans -/

/-- From `s` to `t`, inside a span or around it, no byte has been noted in FRAME yet, and `PIXCNT` has stayed in
range. -/
structure SpanKeeps (s t : State) : Prop where
  cfg : t.cfg = s.cfg := by rfl
  frameMem : t.frameMem = s.frameMem := by rfl
  pixcnt : s.pixcnt ≤ pixelCount s.cfg → t.pixcnt ≤ pixelCount s.cfg := by exact id

namespace SpanKeeps

theorem trans {s t u : State} (h : SpanKeeps s t) (h' : SpanKeeps t u) : SpanKeeps s u where
  cfg := h'.cfg.trans h.cfg
  frameMem := h'.frameMem.trans h.frameMem
  pixcnt hs := h.cfg ▸ h'.pixcnt (h.cfg ▸ h.pixcnt hs)

theorem span {body : State → Result × State} (hb : ∀ s, SpanKeeps s (body s).2) (s : State) :
    SpanKeeps s (span body s).2 := by
  have hinside : SpanKeeps (openSpan s).2 (spanInside body (openSpan s)).2 := by
    rw [spanInside]
    cases (openSpan s).1 with
    | ok => exact hb _
    | err k c => exact {}
  have hopen : SpanKeeps s (openSpan s).2 := {}
  exact (hopen.trans hinside).trans {}

theorem tagged {body : State → Result × State} (hb : ∀ s, SpanKeeps s (body s).2) (dc : Level) (s : State) :
    SpanKeeps s (tagged dc body s).2 :=
  trans (t := { s with sent := [] }) {} (attempt_rel (R := SpanKeeps) trans (fun _ => {}) (span hb) _)

theorem burst (bs : List Byte) (s : State) : SpanKeeps s (burst bs s).2 := {}

end SpanKeeps

/-- R31: `PIXCNT` counts the pixels that have gone out, of `n` at most `n`. -/
theorem pixels_pixcnt_le (color : Color) (n : Nat) (s : State) : (pixels color n s).2.pixcnt ≤ s.pixcnt + n := by
  induction n generalizing s with
  | zero => exact Nat.le_refl _
  | succ n ih =>
    rw [pixels]
    rcases attempt_cases (burst (pix color)) (fun u => pixels color n u.nextPixel) s with ⟨-, h⟩ | ⟨-, h⟩ <;> rw [h]
    · have hrest := ih (burst (pix color) s).2.nextPixel
      have hcount : (burst (pix color) s).2.nextPixel.pixcnt = s.pixcnt + 1 := rfl
      omega
    · exact Nat.le_add_right _ _

theorem pixels_frameMem (color : Color) (n : Nat) (s : State) : (pixels color n s).2.frameMem = s.frameMem := by
  induction n generalizing s with
  | zero => rfl
  | succ n ih =>
    exact attempt_rel (R := fun u v => v.frameMem = u.frameMem) (fun h h' => h'.trans h) (fun _ => rfl)
      (fun u => ih u.nextPixel) s

/-- R154: CLEAR's stream counts from 0, one pixel for each of the window. -/
theorem pixelStream_spanKeeps (color : Color) (s : State) : SpanKeeps s (pixelStream color s).2 where
  cfg := (wireOnly_pixels color _ _).cfg
  frameMem := pixels_frameMem color _ _
  pixcnt _ := (pixels_pixcnt_le color _ _).trans_eq (Nat.zero_add _)

theorem commandFrame_frameMem_cases (op : Byte) (s : State) :
    (commandFrame op s).2.frameMem = s.frameMem ∨ (commandFrame op s).2.frameMem = [] := by
  obtain ⟨-, -, -, hmem⟩ := frame_ghost .low [op] s
  exact (ite_eq_or_eq _ _ _).imp_left fun h => h.trans hmem

theorem noteSeen_of_ok (w : WindowSeen) {p : Result × State} (h : p.1 = .ok) :
    noteSeen w p = (.ok, { p.2 with seen := w }) := by
  rw [noteSeen, h]

theorem noteSeen_of_err (w : WindowSeen) {p : Result × State} {kind : ErrorKind} {c : Cause} (h : p.1 = .err kind c) :
    noteSeen w p = (.err kind c, p.2) := by
  rw [noteSeen, h]

namespace PanelInv

/-- R38: after a data span where its bytes land has been noted, and where others would is not promised. -/
theorem dataSpan {body : State → Result × State} (hb : ∀ s, SpanKeeps s (body s).2) {s : State} (h : PanelInv s) :
    PanelInv (dataSpan body s).2 := by
  have hspan : SpanKeeps s (tagged .high body s).2 := .tagged hb .high s
  have hfits : FitsPanel (tagged .high body s).2.cfg (tagged .high body s).2.frameMem := by
    rw [hspan.cfg, hspan.frameMem]
    exact h.frameFits
  exact ⟨hfits.frameAfter s.cs, hspan.cfg ▸ hspan.pixcnt h.pixcntBound, nofun⟩

/-- R38: a command frame leaves FRAME as known or makes it unknown. -/
theorem commandFrame (op : Byte) {s : State} (h : PanelInv s) : PanelInv (commandFrame op s).2 := by
  have hcfg := (wireOnly_commandFrame op s).cfg
  refine ⟨?frame, ?pixcnt, nofun⟩
  case frame =>
    rw [hcfg]
    rcases commandFrame_frameMem_cases op s with hmem | hmem <;> rw [hmem]
    · exact h.frameFits
    · exact .nil _
  case pixcnt =>
    rw [hcfg, commandFrame_pixcnt]
    exact h.pixcntBound

/-- Log 17: a step of the window protocol other than the last promises no pixel position. -/
theorem noteSeen {w : WindowSeen} (hw : w ≠ .origin) {p : Result × State} (h : PanelInv p.2) :
    PanelInv (noteSeen w p).2 := by
  obtain ⟨_ | _, s⟩ := p
  · exact h.congr rfl rfl rfl fun hseen => absurd hseen hw
  · exact h

/-- Log 17, R153: the memory-write step promises pixels from (0,0) on only where it has succeeded, and so left STREAM on
and CS high, on a Ready controller. -/
theorem memoryStep {s : State} (h : PanelInv s) : PanelInv (memoryStep s).2 := by
  have hframe : PanelInv (Machine.commandFrame s.cfg.opRamwr s).2 := h.commandFrame _
  rw [Machine.memoryStep]
  cases hresult : (Machine.commandFrame s.cfg.opRamwr s).1 with
  | err kind c =>
    rw [noteSeen_of_err _ hresult]
    exact hframe
  | ok =>
    rw [noteSeen_of_ok _ hresult]
    refine hframe.congr rfl rfl rfl fun hseen => ?_
    obtain ⟨-, hready⟩ : s.seen = .rows ∧ s.ctl = .ready := by
      by_contra hnot
      exact nomatch (if_neg hnot).symm.trans hseen
    refine ⟨?_, (wireOnly_commandFrame _ s).ctl.trans hready, (commandFrame_runs _ s).high (by simp) hresult⟩
    rw [commandFrame_stream, ← commandFrame_fst, hresult]
    simp

/-- R37, log 17: what has been seen is dropped unless the operation leaves the controller Ready. -/
theorem endOp (op : HostOp) {p : Result × State} (h : PanelInv p.2) : PanelInv (endOp op p) := by
  refine h.congr rfl rfl rfl fun hseen => ?_
  rw [endOp_seen, seenAfter] at hseen
  split at hseen
  next hready =>
    obtain ⟨hstream, -, hcs⟩ := h.originSound hseen
    exact ⟨hstream, hready, hcs⟩
  next => cases hseen

theorem partsKeep : PartsKeep fun s t => PanelInv s → PanelInv t where
  trans h h' hs := h' (h hs)
  latches h hs := hs.congr h.cfg h.frameMem h.pixcnt (by rw [h.seen, h.stream, h.ctl, h.cs]; exact hs.originSound)
  emit _ _ _ hs := hs.congr rfl rfl rfl hs.originSound
  commandFrame op _ := commandFrame op
  dataFrame bs _ := dataSpan (SpanKeeps.burst bs)
  pixelSpan color _ := dataSpan (pixelStream_spanKeeps color)
  noteSeen hw _ := noteSeen hw
  memoryStep _ := memoryStep
  noteReset _ hs := ⟨.nil _, hs.pixcntBound, nofun⟩
  endOp op _ := endOp op

end PanelInv

/-! ## The invariant: the registers of the sequencer -/

/-! ### `TIX` and `BL` (R24, R30) -/

/-- The end of an operation writes what CLEAR's pixel span does. -/
theorem finish_changesOnly (s : State) : ChangesOnly [.wires, .frame, .pixcnt] s (finish s) := by
  rw [finish]
  cases s.activity with
  | idle => exact .ofEq
  | replay => exact .ofEq
  | window st => exact .ofEq
  | clearing st =>
    exact .trans (.ofWire (wireOnly_pixelSpan s.color s) (by simp) (.inl (by simp)) (.inl (by simp)))
      (changesOnly_endOp _ _)

/-- R130: INITIALIZE starts from entry 0, and only it and the table's entries write `TIX`. -/
theorem exec_tix_le {i : Instr} {s t : State} (h : exec i s = .next t) (hi : i.space ≠ .table)
    (hs : s.tix ≤ tableLen s.cfg) : t.tix ≤ tableLen s.cfg := by
  rcases (exec_changesOnly h).regs .tix with hw | hkept
  · rcases tix_mem_writes hw with rfl | ⟨op, ps, rfl⟩ | ⟨n, rfl⟩
    · cases h
      obtain ⟨-, hle, -⟩ := replayList_tix s.cfg.initTable { s.begin .replay with tix := 0 }
      rw [endOp_tix, initBody_eq]
      exact hle.trans_eq (Nat.zero_add _)
    · exact absurd rfl hi
    · exact absurd rfl hi
  · exact hkept ▸ hs

/-- R30: an entry advances `TIX` by one at most. -/
theorem entryDone_tix_le (e : CommandEntry) (s : State) : (entryDone (entryBody e s)).tix ≤ s.tix + 1 := by
  rcases entryDone_cases (entryBody e s) with h | h <;> rw [h]
  · exact Nat.succ_le_succ (entryBody_tix e s).le
  · exact (entryBody_tix e s).trans_le (Nat.le_succ _)

theorem step_tix_le {s t : State} (h : step s = .next t) (hs : s.tix ≤ tableLen s.cfg) : t.tix ≤ tableLen s.cfg := by
  have his := step_is s
  generalize step s = o at h his
  cases his with
  | entry e busy inside at_ =>
    obtain ⟨hlt, -⟩ := List.getElem?_eq_some_iff.1 at_
    rw [exec_toInstr] at h
    cases h
    exact (entryDone_tix_le e s).trans hlt
  | wire i busy which => exact exec_tix_le h (by rcases which with rfl | rfl | rfl <;> nofun) hs
  | host i idle space => exact exec_tix_le (s := s.takeRequest) h (space ▸ nofun) hs
  | wait idle => cases h; exact hs
  | finish busy inside =>
    cases h
    exact ((finish_changesOnly s).regs .tix).resolve_left (by simp) ▸ hs
  | reserved idle => cases h; exact hs
  | notWhole => cases h
  | noMove => cases h

/-- R24, R84: SET_BACKLIGHT, the only writer of `BL`, checks its operand. -/
theorem exec_blFits {i : Instr} {s t : State} (h : exec i s = .next t) (hs : s.bl < 2 ^ s.cfg.dutyW.val) :
    t.bl < 2 ^ t.cfg.dutyW.val := by
  rw [(exec_changesOnly h).cfg]
  rcases (exec_changesOnly h).regs .bl with hw | hkept
  · obtain ⟨d, rfl⟩ := bl_mem_writes hw
    by_cases hd : d < 2 ^ s.cfg.dutyW.val
    · rw [exec_setBacklight_of_fits hd] at h
      cases h
      exact hd
    · rw [overwideDutyRefused d s hd] at h
      cases h
      exact hs
  · exact hkept ▸ hs

theorem finish_blFits {s : State} (hs : s.bl < 2 ^ s.cfg.dutyW.val) : (finish s).bl < 2 ^ (finish s).cfg.dutyW.val := by
  rw [finish_cfg]
  exact ((finish_changesOnly s).regs .bl).resolve_left (by simp) ▸ hs

/-! ### `BUSY` (R29) -/

/-- R29: `BUSY = 1` exactly inside an operation. -/
def BusyInside (s : State) : Prop := s.busy = true ↔ s.activity ≠ .idle

theorem BusyInside.congr {s t : State} (h : BusyInside s) (hbusy : t.busy = s.busy) (ha : t.activity = s.activity) :
    BusyInside t := by
  rw [BusyInside, hbusy, ha]
  exact h

theorem busyInside_endOp (op : HostOp) (p : Result × State) : BusyInside (endOp op p) := by
  simp [BusyInside]

theorem nextActivity_eq_idle (a : Activity) : nextActivity a = .idle ↔ a = .idle := by
  cases a <;> simp [nextActivity]

/-- R150: a step of the window body goes on inside its operation, or ends it. -/
theorem BusyInside.wireDone {s : State} {p : Result × State} (h : BusyInside s) (hwire : WireOnly s p.2) :
    BusyInside (wireDone p) := by
  cases hp : p.1 with
  | ok =>
    rw [wireDone_of_ok hp, BusyInside, ne_eq, nextActivity_eq_idle]
    exact h.congr hwire.busy hwire.activity
  | err kind c =>
    rw [wireDone_of_err hp]
    exact busyInside_endOp _ p

/-- R130: so does an entry of the table. -/
theorem BusyInside.entryDone {s : State} (h : BusyInside s) (e : CommandEntry) :
    BusyInside (entryDone (entryBody e s)) := by
  rcases entryDone_cases (entryBody e s) with hd | hd <;> rw [hd]
  · exact h.congr (entryBody_keeps e s).busy (entryBody_keeps e s).activity
  · exact busyInside_endOp _ _

theorem exec_busyInside {i : Instr} {s t : State} (h : exec i s = .next t) (hs : BusyInside s) : BusyInside t := by
  cases hop : hostOpOf i with
  | some op =>
    obtain ⟨f, hf⟩ := exists_isOperation hop
    rcases hf.ends s t h with rfl | ⟨-, rfl⟩
    · exact busyInside_endOp op _
    · exact hs.congr rfl rfl
  | none =>
    cases exec_is h <;> cases hop
    case tCommand.refl op ps => exact hs.entryDone (.command op ps)
    case tDelay.refl n => exact hs.entryDone (.delay n)
    case caset.refl => exact hs.wireDone (wireOnly_columnStep s)
    case paset.refl => exact hs.wireDone (wireOnly_rowStep s)
    case ramwr.refl => exact hs.wireDone (wireOnly_memoryStep s)

theorem finish_busyInside {s : State} (hs : BusyInside s) : BusyInside (finish s) := by
  rw [finish]
  cases s.activity with
  | idle => exact hs
  | replay => exact busyInside_endOp _ _
  | window st => exact busyInside_endOp _ _
  | clearing st => exact busyInside_endOp _ _

/-! ### The whole invariant -/

/-- Settles O3, field by field: what is known of the panel and where CS stands by what the parts of the operations keep
(`PanelInv.partsKeep`, `CsFollows.partsKeep`), TIX and BL by their writers, BUSY by how operations begin and end, and
STATUS because no DelayError is raised (`delayErrorNeverRaised`). -/
theorem stepKeepsInvariant : Obligations.StepKeepsInvariant := by
  unfold Obligations.StepKeepsInvariant
  intro s t hs h
  have hpanel : PanelInv t := PanelInv.partsKeep.step h hs.panelInv
  exact {
    memoryWf := hpanel.frameFits.wf
    memoryInside := hpanel.frameFits.inside
    noSpan := (CsFollows.partsKeep.step h).closed hs.noSpan
    tixBound := stepNeverWritesConstants s t h ▸ step_tix_le h hs.tixBound
    pixcntBound := hpanel.pixcntBound
    blFits := step_keeps (P := fun u => u.bl < 2 ^ u.cfg.dutyW.val) (fun _ _ _ => exec_blFits) (fun _ hu => hu)
      (fun _ hu => hu) (fun _ => finish_blFits) h hs.blFits
    busyIff := step_keeps (P := BusyInside) (fun _ _ _ => exec_busyInside) (fun _ hu => hu.congr rfl rfl)
      (fun _ hu => hu.congr rfl rfl) (fun _ => finish_busyInside) h hs.busyIff
    noDelayError := fun c hc => hs.noDelayError c ((delayErrorNeverRaised s t c h).1 hc)
    originSound := hpanel.originSound }

end Sys2Proof.Machine

namespace Sys2Proof.Machine

/-! ## SEND_COMMAND and SEND_DATA on their success path (R101, R102) -/

/-- R103, case F0: a frame whose CS writes are answered `ok` leaves CS high. -/
theorem csAfterFrame_of_ok {ans : Nat → Answer} (h : ∀ i, i < 4 → ans i = .ok) (before : Level) :
    csAfterFrame before ans = .high := by
  rw [csAfterFrame, h 0 (by decide), h 1 (by decide), h 3 (by decide)]
  rfl

theorem RanFrame.of_answersOk {op : HostOp} {v : Level} {bs : List Byte} {s t : State} (h : RanFrame op v bs s t)
    (hok : AnswersOk s 4) :
    t.trace = s.trace ++ (frameEvents v bs ++ [.ret op .ok]) ∧ t.status = .ok ∧ t.dc = v ∧ t.cs = .high := by
  have hrun := frameRun_ok hok v bs
  refine ⟨?trace, ?status, ?dc, ?cs⟩
  case trace => rw [h.trace, hrun, List.append_assoc]
  case status => rw [h.status, hrun]
  case dc => rw [h.dc, hok 0 (by decide), levelAfter_ok]
  case cs => rw [h.cs, csAfterFrame_of_ok hok]

/-- Settles O11: both operations run one frame (`execSendCommand_ranFrame`, `execSendData_ranFrame`), which succeeds
(`RanFrame.of_answersOk`). -/
theorem sendOperationsSucceed : Obligations.SendOperationsSucceed := by
  unfold Obligations.SendOperationsSucceed
  intro s hok
  exact ⟨fun op => ⟨_, rfl, (execSendCommand_ranFrame rfl).of_answersOk hok⟩,
    fun bs => ⟨_, rfl, (execSendData_ranFrame rfl).of_answersOk hok⟩⟩

end Sys2Proof.Machine

namespace Sys2Proof

/-! ## Words written out (R73, R76, R80 to R82) -/

/-- Settles O48, by computing the decoder on each word. -/
theorem encodingsAsTheSpecWritesThem : Obligations.EncodingsAsTheSpecWritesThem := by
  unfold Obligations.EncodingsAsTheSpecWritesThem
  decide

end Sys2Proof
